-- ==== Sys2Proof/Word.lean ====
section
/-! DEFINITION. The word types of ESTIA-CF: a byte is 8 bits, the checksum register 16, a command
word 12 (spec/00_scope.md R9, spec/30_encoding.md R81). Lengths, counts and indices are natural
numbers that never wrap (R9), so they have no type here. -/

namespace Sys2Proof

/-- A byte: 8 bits (R9). -/
abbrev Byte := BitVec 8

/-- A value of the checksum register: exactly 16 bits (R9, R21). -/
abbrev Word := BitVec 16

/-- A command word `cmd[11:0]`: 12 bits (R81). -/
abbrev CmdWord := BitVec 12

end Sys2Proof
end

