-- ==== Sys2Proof/Syntax.lean ====
section
/-! DEFINITION. The eight operations of the block, one constructor per row of the opcode map
(spec/30_encoding.md R80, R84), the three command formats (R81), the kinds of reserved word (R86)
and the structured form of the line syntax (R90). -/

namespace Sys2Proof

/-- An operation of the block, with its operands (R80, R82, R84). -/
inductive Instr where
  /-- CRC.INIT (R100) -/
  | crcInit
  /-- CRC.UPDATE b (R101) -/
  | crcUpdate (b : Byte)
  /-- CRC.READ (R104) -/
  | crcRead
  /-- FRM.RXBYTE b (R140) -/
  | frmRxbyte (b : Byte)
  /-- FRM.TICK rx_avail, cmd_sent (R160) -/
  | frmTick (rxAvail cmdSent : Bool)
  /-- FRM.POP (R142) -/
  | frmPop
  /-- FRM.STATUS rx_avail, cmd_sent (R144) -/
  | frmStatus (rxAvail cmdSent : Bool)
  /-- BLK.RESET (R146) -/
  | blkReset
deriving DecidableEq, Repr

/-- The formats of a command word (R81). -/
inductive Format where
  /-- no operand: `cmd[7:0]` must be 0 -/
  | N
  /-- byte operand `cmd[7:0]` -/
  | B
  /-- flag operands: `cmd[0]` is `rx_avail`, `cmd[1]` is `cmd_sent`, `cmd[7:2]` must be 0 -/
  | F
deriving DecidableEq, Repr

/-- Why a command word is reserved, the three cases of R86. -/
inductive Reserved where
  /-- (a): `cmd[11:8]` is 0x0 or 0x9 to 0xF -/
  | opcode
  /-- (b): format N and `cmd[7:0] != 0` -/
  | argument
  /-- (c): format F and `cmd[7:2] != 0` -/
  | flagBits
deriving DecidableEq, Repr

/-- A row of the opcode map: a word `w` selects it when `w & mask = match` (R84). -/
structure OpRow where
  mnemonic : String
  format : Format
  matchWord : CmdWord
  mask : CmdWord
deriving DecidableEq, Repr

/-- A line of a listing (R90), its operands in the form the text gives them: either flag of a format F
line may be omitted and is then 0, and FRM.RXBYTES abbreviates one FRM.RXBYTE per byte. -/
inductive AsmLine where
  | crcInit
  | crcUpdate (b : Byte)
  | crcRead
  | frmRxbyte (b : Byte)
  | frmRxbytes (bs : List Byte)
  | frmTick (rxAvail cmdSent : Option Bool)
  | frmPop
  | frmStatus (rxAvail cmdSent : Option Bool)
  | blkReset
deriving DecidableEq, Repr

end Sys2Proof
end

