-- ==== Sys2Proof/Config.lean ====
section
/-! DEFINITION. What an implementation fixes: the fixed parameters of R7 as named constants, each in
one place (log 10), and the three open parameters of R8, which the spec names and gives no value
(log 4). -/

namespace Sys2Proof

namespace Config

/-- `SENTINEL0`, first sentinel byte (R7). UNVERIFIED literal, log 10. -/
abbrev sentinel0 : Byte := 0xA0#8

/-- `SENTINEL1`, second sentinel byte (R7). UNVERIFIED literal, log 10. -/
abbrev sentinel1 : Byte := 0x00#8

/-- `SENTINEL_LEN`, bytes in the sentinel (R7). -/
abbrev sentinelLen : Nat := 2

/-- `HEADER_LEN`, bytes before the payload region (R7). UNVERIFIED literal, log 10. -/
abbrev headerLen : Nat := 4

/-- `CRC_LEN`, bytes of trailing checksum (R7). UNVERIFIED literal, log 10. -/
abbrev crcLen : Nat := 2

/-- `TYPE_OFF`, offset of the type byte, which no rule reads (R6, R7). -/
abbrev typeOff : Nat := 2

/-- `LEN_OFF`, offset of the declared-length byte (R7, R70). UNVERIFIED, log 10. -/
abbrev lenOff : Nat := 3

/-- `CRC_INIT`, register value at the start of a message (R7). UNVERIFIED literal, log 10. -/
abbrev crcInit : Word := 0xFFFF#16

/-- `CRC_POLY`, feedback constant, least-significant-bit-first form (R7). UNVERIFIED literal, log 10. -/
abbrev crcPoly : Word := 0x8408#16

/-- `CRC_XOROUT`: no final XOR (R7, R104). UNVERIFIED literal, log 10. -/
abbrev crcXorOut : Word := 0x0000#16

/-- `MIN_FRAME_LEN`: 6 (R7). -/
abbrev minFrameLen : Nat := headerLen + 0 + crcLen

/-- `MAX_DECL_FRAME_LEN`: 261 (R7). -/
abbrev maxDeclFrameLen : Nat := headerLen + 255 + crcLen

/-- How far this instance's `FRAME_MAX_LEN` lies above its least value. Free: no body (R8, U1, log 4). -/
opaque frameMaxLenSlack : Nat

/-- How far this instance's `FQ_CAP` lies above its least value. Free: no body (R8, U2, log 4). -/
opaque fqCapSlack : Nat

/-- How far this instance's `RAW_CAP` lies above its least value. Free: no body (R8, U3, log 4). -/
opaque rawCapSlack : Nat

end Config

/-- The three open parameters of an instance of the block, fixed when it is built (R8, R222). -/
structure Params where
  /-- `FRAME_MAX_LEN`: bound on the accumulator above which step 2 of the tick refuses to merge. -/
  frameMaxLen : Nat
  /-- `FQ_CAP`: capacity of the completed-frame queue, in frames. -/
  fqCap : Nat
  /-- `RAW_CAP`: capacity of the raw backlog, in bytes. -/
  rawCap : Nat
deriving DecidableEq, Repr

/-- The parameters of the instance that `State.reset` describes: of them only the bounds of R8 are
known (log 4). -/
def Config.params : Params where
  frameMaxLen := Config.frameMaxLenSlack + 6
  fqCap := Config.fqCapSlack + 1
  rawCap := Config.rawCapSlack + 2

end Sys2Proof
end

