-- ==== Sys2Proof/WellFormed.lean ====
section
/-! DEFINITION. When a term of the syntax is legal. Every operand value of every operation is legal
(spec/30_encoding.md R82), so `Instr.wf` refuses nothing; the checks that can fail are those on an
instance's parameters (R8) and on a frame (R70). -/

namespace Sys2Proof

/-- Well-formed operations: in every format all operand values are legal (R82). -/
def Instr.wf : Instr → Bool
  | .crcInit => true
  | .crcUpdate _ => true
  | .crcRead => true
  | .frmRxbyte _ => true
  | .frmTick _ _ => true
  | .frmPop => true
  | .frmStatus _ _ => true
  | .blkReset => true

/-- The constraints of R8: `FRAME_MAX_LEN >= 6`, `FQ_CAP >= 1`, `RAW_CAP >= 2`. -/
def Params.wf (p : Params) : Bool :=
  decide (Config.minFrameLen ≤ p.frameMaxLen) && decide (1 ≤ p.fqCap) && decide (2 ≤ p.rawCap)

/-- The layout of R70: a frame begins with the sentinel and is `HEADER_LEN + len + CRC_LEN` bytes long,
`len` being the byte at `LEN_OFF`. Its checksum is not looked at here. -/
def Frame.wf (f : List Byte) : Bool :=
  decide (f[0]? = some Config.sentinel0) && decide (f[1]? = some Config.sentinel1) &&
    decide (f[Config.lenOff]?.map (fun len => Config.headerLen + len.toNat + Config.crcLen)
      = some f.length)

end Sys2Proof
end

