-- ==== Sys2Proof/Decode.lean ====
section
/-! DEFINITION. The command word read and written: the fields of spec/30_encoding.md R81 and R82, the
decoder (total, a reserved word rejected by the case of R86 it falls under), the encoder, the opcode
map of R84 as rows, the host's entry `decodeTableWord`, and the expansion and text of a listing line
(R90). -/

namespace Sys2Proof

/-- `cmd[11:8]`, the operation code (R81). -/
def CmdWord.op (w : CmdWord) : BitVec 4 := w.extractLsb' 8 4

/-- `cmd[7:0]`, the argument (R81). -/
def CmdWord.arg (w : CmdWord) : Byte := w.extractLsb' 0 8

/-- Format N: the argument must be 0 (R81, R86 (b)). -/
def decodeN (i : Instr) (arg : Byte) : Except Reserved Instr :=
  if arg = 0#8 then .ok i else .error .argument

/-- Format B: the argument is the operand as it stands (R82). -/
def decodeB (mk : Byte → Instr) (arg : Byte) : Except Reserved Instr := .ok (mk arg)

/-- Format F: `rx_avail = cmd[0]`, `cmd_sent = cmd[1]`, and `cmd[7:2]` must be 0 (R81, R82, R86 (c)). -/
def decodeF (mk : Bool → Bool → Instr) (arg : Byte) : Except Reserved Instr :=
  if arg.extractLsb' 2 6 = 0#6 then .ok (mk (arg.getLsbD 0) (arg.getLsbD 1)) else .error .flagBits

/-- The decoder: the operation a command word requests, or the case of R86 that makes it reserved. -/
def decode (w : CmdWord) : Except Reserved Instr :=
  match (CmdWord.op w).toNat with
  | 0x1 => decodeN .crcInit (CmdWord.arg w)
  | 0x2 => decodeB .crcUpdate (CmdWord.arg w)
  | 0x3 => decodeN .crcRead (CmdWord.arg w)
  | 0x4 => decodeB .frmRxbyte (CmdWord.arg w)
  | 0x5 => decodeF .frmTick (CmdWord.arg w)
  | 0x6 => decodeN .frmPop (CmdWord.arg w)
  | 0x7 => decodeF .frmStatus (CmdWord.arg w)
  | 0x8 => decodeN .blkReset (CmdWord.arg w)
  | _ => .error .opcode

/-- The argument byte of format F (R81). -/
def flagArg (rxAvail cmdSent : Bool) : Byte :=
  (0#6 ++ BitVec.ofBool cmdSent) ++ BitVec.ofBool rxAvail

/-- The operation code of an operation (R84). -/
def Instr.opcode : Instr → BitVec 4
  | .crcInit => 0x1#4
  | .crcUpdate _ => 0x2#4
  | .crcRead => 0x3#4
  | .frmRxbyte _ => 0x4#4
  | .frmTick _ _ => 0x5#4
  | .frmPop => 0x6#4
  | .frmStatus _ _ => 0x7#4
  | .blkReset => 0x8#4

/-- The argument byte of an operation (R81, R84). -/
def Instr.argByte : Instr → Byte
  | .crcInit => 0x00#8
  | .crcUpdate b => b
  | .crcRead => 0x00#8
  | .frmRxbyte b => b
  | .frmTick rxAvail cmdSent => flagArg rxAvail cmdSent
  | .frmPop => 0x00#8
  | .frmStatus rxAvail cmdSent => flagArg rxAvail cmdSent
  | .blkReset => 0x00#8

/-- The encoder: the command word of an operation (R81, R84). -/
def encode (i : Instr) : CmdWord := i.opcode ++ i.argByte

/-- The name of an operation (R84). -/
def Instr.mnemonic : Instr → String
  | .crcInit => "CRC.INIT"
  | .crcUpdate _ => "CRC.UPDATE"
  | .crcRead => "CRC.READ"
  | .frmRxbyte _ => "FRM.RXBYTE"
  | .frmTick _ _ => "FRM.TICK"
  | .frmPop => "FRM.POP"
  | .frmStatus _ _ => "FRM.STATUS"
  | .blkReset => "BLK.RESET"

/-- The opcode map, row by row as R84 prints it. -/
def opcodeTable : List OpRow :=
  [ ⟨"CRC.INIT", .N, 0x100#12, 0xFFF#12⟩,
    ⟨"CRC.UPDATE", .B, 0x200#12, 0xF00#12⟩,
    ⟨"CRC.READ", .N, 0x300#12, 0xFFF#12⟩,
    ⟨"FRM.RXBYTE", .B, 0x400#12, 0xF00#12⟩,
    ⟨"FRM.TICK", .F, 0x500#12, 0xFFC#12⟩,
    ⟨"FRM.POP", .N, 0x600#12, 0xFFF#12⟩,
    ⟨"FRM.STATUS", .F, 0x700#12, 0xFFC#12⟩,
    ⟨"BLK.RESET", .N, 0x800#12, 0xFFF#12⟩ ]

/-- `w & mask = match`: the word selects the row (R84). -/
def OpRow.selects (r : OpRow) (w : CmdWord) : Bool := decide (w &&& r.mask = r.matchWord)

/-- The instruction the decoder reads from the bits `w` of a row of the opcode table. There is one
command length, 12 bits (R87), so a number with a higher bit set is no command word (log 9). -/
def decodeTableWord (_nbits w : Nat) : Option Instr :=
  if w < 4096 then (decode (BitVec.ofNat 12 w)).toOption else none

/-- The operations a listing line stands for (R90): an omitted flag is 0; FRM.RXBYTES is one FRM.RXBYTE
per byte, in order. -/
def AsmLine.expand : AsmLine → List Instr
  | .crcInit => [.crcInit]
  | .crcUpdate b => [.crcUpdate b]
  | .crcRead => [.crcRead]
  | .frmRxbyte b => [.frmRxbyte b]
  | .frmRxbytes bs => bs.map .frmRxbyte
  | .frmTick rxAvail cmdSent => [.frmTick (rxAvail.getD false) (cmdSent.getD false)]
  | .frmPop => [.frmPop]
  | .frmStatus rxAvail cmdSent => [.frmStatus (rxAvail.getD false) (cmdSent.getD false)]
  | .blkReset => [.blkReset]

/-- One hex digit, a capital letter above nine as the listings of R90 write it. -/
def hexDigit (n : Nat) : Char :=
  if n < 10 then Char.ofNat (48 + n) else Char.ofNat (55 + n)

/-- Two hex digits. -/
def hexByte (b : Byte) : String :=
  String.ofList [hexDigit (b.toNat / 16), hexDigit (b.toNat % 16)]

/-- The operand text of a line: `0x` and two hex digits, or the two flags (R90). -/
def Instr.operandText : Instr → String
  | .crcUpdate b | .frmRxbyte b => " 0x" ++ hexByte b
  | .frmTick rxAvail cmdSent | .frmStatus rxAvail cmdSent =>
      " rx_avail=" ++ (if rxAvail then "1" else "0") ++ ", cmd_sent=" ++ (if cmdSent then "1" else "0")
  | .crcInit | .crcRead | .frmPop | .blkReset => ""

/-- An operation as one line of a listing: the mnemonic in capitals, then the operands (R90). -/
def Instr.asm (i : Instr) : String := i.mnemonic ++ i.operandText

end Sys2Proof
end

