-- ==== Sys2Proof/Machine/State.lean ====
section
/-! DEFINITION. The state of the machine: the five elements of the block (spec/10_state.md R20), and the
model's own fields that stand for what surrounds it: the instance's parameters (R8), the two agents'
sides of the interface (R59) and the order in which operations and power-on reach the block (R60,
R220). Plain data. -/

namespace Sys2Proof.Machine

/-- The two agents that issue operations (R59). -/
inductive Agent where
  | host
  | transport
deriving DecidableEq, Repr

/-- What can reach the block next: an operation of an agent, or power-on (R60, R220; log 1, log 5). -/
inductive Event where
  | op (a : Agent)
  | powerOn
deriving DecidableEq, Repr

/-- The `code` field of a response (R85); its numbers are `RspCode.num`. -/
inductive RspCode where
  /-- `RSP_OK`: the operation was carried out -/
  | ok
  /-- `RSP_EMPTY`: FRM.POP found the queue empty -/
  | empty
  /-- `RSP_ERR_OP`: the command word was reserved -/
  | errOp
deriving DecidableEq, Repr

/-- The framer's tri-state status (R28); its numbers are `Sniff.num`. -/
inductive Sniff where
  | idle
  | busy
  | framePending
deriving DecidableEq, Repr

/-- A response record (R85): a field an operation does not fill is absent, not zero. -/
structure Response where
  code : RspCode
  crc : Option Word := none
  sniff : Option Sniff := none
  rxovf : Option Bool := none
  count : Option Nat := none
  frame : Option (List Byte) := none
deriving DecidableEq, Repr

/-- One agent's side of the interface (the model's own, log 1, log 3): the command words it has still to
issue, in its own order (R59), and the response handed to it last (R14), none before the first. -/
structure Port where
  pending : List CmdWord
  resp : Option Response
deriving DecidableEq, Repr

/-- The action of one pass of the tick's loop (R161): exactly one of four. -/
inductive TickStep where
  /-- step 2, merge (R164) -/
  | merge
  /-- step 3, close (R165) -/
  | close
  /-- step 4, split at index `p` (R166) -/
  | split (p : Nat)
  /-- step 5, append (R167) -/
  | append
deriving DecidableEq, Repr

/-- What a check of a buffer returns (R201). Only `ok`, `errCrc` and `errLen` are returned by the checks
of this spec; `errType` and `errEmpty` can come from the decoder's checks that R127 leaves places for,
the last two from out-of-scope components. -/
inductive Check where
  | ok
  | errCrc
  | errType
  | errLen
  | errEmpty
  | errTimeout
  | errName
deriving DecidableEq, Repr

/-- The state. -/
structure State where
  /-- `CRC`, the checksum register (R21) -/
  crc : Word
  /-- `RAW`, the raw backlog, head first (R23) -/
  raw : List Byte
  /-- `ACC`, the accumulator, index 0 first (R24) -/
  acc : List Byte
  /-- `CFQ`, the completed-frame queue, head first (R25) -/
  cfq : List (List Byte)
  /-- `RXOVF`, the sticky overflow flag (R26) -/
  rxovf : Bool
  /-- the instance's open parameters, which no operation writes (R8, R28); the model's own field, log 4 -/
  params : Params
  /-- the host's side of the interface; the model's own field, log 1 -/
  host : Port
  /-- the transport's side of the interface; the model's own field, log 1 -/
  transport : Port
  /-- what reaches the block next, in the total order of R60; the model's own field, log 1 -/
  events : List Event
  /-- whose operation is being carried out; the model's own field, log 3 -/
  issuer : Agent
deriving DecidableEq, Repr

/-- What the block meets next (log 1): nothing; an agent's turn with no operation to issue; power-on;
or a command word, with the state in which it is carried out. -/
inductive Fetched where
  | idle
  | skip (s : State)
  | powerOn (s : State)
  | command (w : CmdWord) (s : State)
deriving DecidableEq, Repr

/-- Why the machine stops: never. No operation traps, aborts or halts (R200, R203, R205), so the type
has no constructor. -/
inductive Fault where
deriving DecidableEq, Repr

/-- Why an instruction has no meaning. No meaning answers with a refusal: even a reserved command word is
answered with a response (R86). -/
inductive Refusal where
  /-- The instruction has no meaning yet; raised by `exec` alone. Safe: the machine stops. -/
  | notModelled (mnemonic : String)
deriving DecidableEq, Repr

/-- The machine right after reset (R33) of an instance built with parameters `p`: the five elements as
R33 states them; no agent has an operation to issue or a response yet (DESIGN CHOICE, log 8). -/
def State.resetWith (p : Params) : State where
  crc := Config.crcInit
  raw := []
  acc := []
  cfq := []
  rxovf := false
  params := p
  host := ⟨[], none⟩
  transport := ⟨[], none⟩
  events := []
  issuer := .host

/-- The machine right after reset (R33), for an instance of which only the bounds of R8 are known (log 4). -/
def State.reset : State := State.resetWith Config.params

end Sys2Proof.Machine
end

