-- ==== Sys2Proof/Machine/Flags.lean ====
section
/-! DEFINITION. The one flag and the one status of the block: `RXOVF` (spec/10_state.md R26) and the
tri-state `SNIFF` (R28), the numbers of the status, response and error codes (R28, R85, R201). No
operation writes any other flag; the checksum operations write none (R26). -/

namespace Sys2Proof.Machine

/-- `RXOVF <- 1` (R26, R141). -/
def State.setRxovf (s : State) : State := { s with rxovf := true }

/-- `SNIFF(rx_avail, cmd_sent)` (R28): the first of pending, busy, idle whose condition holds. -/
def State.sniff (s : State) (rxAvail cmdSent : Bool) : Sniff :=
  if 0 < s.cfq.length then .framePending
  else if 0 < s.raw.length ∨ 0 < s.acc.length ∨ rxAvail = true ∨ cmdSent = true then .busy
  else .idle

/-- The code of a status, 2 bits (R28); 3 is never produced. -/
def Sniff.num : Sniff → BitVec 2
  | .idle => 0#2
  | .busy => 1#2
  | .framePending => 2#2

/-- The number of a response code, 2 bits (R85); 2 is never produced. -/
def RspCode.num : RspCode → BitVec 2
  | .ok => 0#2
  | .empty => 1#2
  | .errOp => 3#2

/-- The number of a check's result (R201), a signed integer (R9); the numbers are the spec's placeholders
(U9, log 11). -/
def Check.code : Check → Int
  | .ok => 0
  | .errCrc => -1
  | .errType => -2
  | .errLen => -3
  | .errEmpty => -4
  | .errTimeout => -5
  | .errName => -6

end Sys2Proof.Machine
end

