-- ==== Sys2Proof/Machine/Operands.lean ====
section
/-! DEFINITION. Byte sequences, and values laid out in bytes: the slices and `MemRead`/`MemWrite` of
spec/00_scope.md R10 to R12, big-endian (spec/20_memory.md R50), zero extension (R11), the sentinel
pair and the declared length (spec/10_state.md R27, spec/30_encoding.md R72), and the host-side
functions of a buffer that need no block operation. The operand forms of the command word itself are
in Decode.lean. -/

namespace Sys2Proof.Machine

/-- `zext_16` of a byte (R11). -/
def zext16 (b : Byte) : Word := b.setWidth 16

/-- Bits 15 to 8 of a checksum (R50). -/
def hiByte (c : Word) : Byte := c.extractLsb' 8 8

/-- Bits 7 to 0 of a checksum (R50). -/
def loByte (c : Word) : Byte := c.extractLsb' 0 8

/-- `s[i .. e-1]` (R10): the bytes from index `i` up to, not including, index `e`. -/
def slice (s : List Byte) (i e : Nat) : List Byte := (s.take e).drop i

/-- `MemRead(S, i, 2)` (R12): big-endian, the byte at the lower index in the high bits (R50). -/
def memRead2 (s : List Byte) (i : Nat) : Option Word :=
  match s[i]?, s[i + 1]? with
  | some hi, some lo => some (hi ++ lo)
  | _, _ => none

/-- `MemWrite(S, i, 2, v)` (R12, R50). -/
def memWrite2 (s : List Byte) (i : Nat) (v : Word) : List Byte :=
  (s.set i (hiByte v)).set (i + 1) (loByte v)

/-- The sentinel pair stands at index `p` of `a`: `a[p] = 0xA0` and `a[p+1] = 0x00`. -/
def pairAt (a : List Byte) (p : Nat) : Bool :=
  decide (a[p]? = some Config.sentinel0) && decide (a[p + 1]? = some Config.sentinel1)

/-- `HEADER_LEN + len + CRC_LEN` for the declared length `len = zext(a[LEN_OFF])`, on naturals that never
wrap (R9, R72); none when there is no byte at `LEN_OFF`. -/
def declaredTotal (a : List Byte) : Option Nat :=
  a[Config.lenOff]?.map (fun len => Config.headerLen + len.toNat + Config.crcLen)

/-- `EXPLEN(a)` (R27): the expected length of a byte sequence that holds a header and begins with the
sentinel, otherwise NONE. -/
def explen (a : List Byte) : Option Nat :=
  if Config.headerLen ≤ a.length ∧ pairAt a 0 = true then declaredTotal a else none

/-- `n < e`; a comparison with NONE is false (R27). -/
def shorterThan (n : Nat) : Option Nat → Bool
  | some e => decide (n < e)
  | none => false

/-- `n > e`; a comparison with NONE is false (R27). -/
def longerThan (n : Nat) : Option Nat → Bool
  | some e => decide (e < n)
  | none => false

/-- `SentAtHead()` of a backlog (R162): the next two unconsumed bytes are the sentinel. -/
def sentAtHead (raw : List Byte) : Bool := pairAt raw 0

/-- `EmbeddedAt(a)` (R166): the least `p` with `1 <= p <= |a| - 2` at which the sentinel pair stands, or
NONE. -/
def embeddedAt (a : List Byte) : Option Nat :=
  (List.range (a.length - 1)).find? (fun p => decide (1 ≤ p) && pairAt a p)

end Sys2Proof.Machine
end

