-- ==== Sys2Proof/Machine/Ops.lean ====
section
/-! DEFINITION. The named operations the meanings share: the checksum's turn, step and fold
(spec/40_crc_ops.md R101, R105), the queues (spec/00_scope.md R13, spec/43_framer_tick.md R163), handing
a response to the issuer (R14), reset of the block (R33), and taking the next command word from the
agents (R59, R60). There is no taking of an exception and no return from one (R205): handing over the
response is how every operation ends. -/

namespace Sys2Proof.Machine

/-! ### The checksum -/

/-- One turn of R101: shift right, and XOR the feedback constant if bit 0 was set. -/
def crcTurn (c : Word) : Word :=
  if c.getLsbD 0 then (c >>> 1) ^^^ Config.crcPoly else c >>> 1

/-- `n` turns. -/
def crcTurns : Nat → Word → Word
  | 0, c => c
  | n + 1, c => crcTurns n (crcTurn c)

/-- `CrcStep(c, b)` (R101): the byte enters the low byte of the register, then eight turns. -/
def crcStep (c : Word) (b : Byte) : Word := crcTurns 8 (c ^^^ zext16 b)

/-- `Fold(c, s)` (R105): the register after feeding `s` from the value `c`. -/
def crcFold (c : Word) (s : List Byte) : Word := s.foldl crcStep c

/-- `Crc16(s)` (R105). -/
def crc16 (s : List Byte) : Word := crcFold Config.crcInit s

/-! ### The queues -/

/-- `PushFrame(f)` (R163): append at the tail, then drop from the head until at most `FQ_CAP` frames are
left. -/
def State.pushFrame (s : State) (f : List Byte) : State :=
  { s with cfq := (s.cfq ++ [f]).drop ((s.cfq ++ [f]).length - s.params.fqCap) }

/-- `RAW.push(b)` (R13, R140). -/
def State.pushRaw (s : State) (b : Byte) : State := { s with raw := s.raw ++ [b] }

/-! ### Reset -/

/-- Every element of the block takes its reset value (R33, R146, R220). What is not the block's own state
is left as it is: the parameters are fixed when the block is built (R222), the agents are outside
(log 5). -/
def State.resetBlock (s : State) : State :=
  { s with crc := Config.crcInit, raw := [], acc := [], cfq := [], rxovf := false }

/-! ### The agents -/

/-- An agent's side of the interface. -/
def State.port (s : State) : Agent → Port
  | .host => s.host
  | .transport => s.transport

/-- `s` with an agent's side of the interface replaced. -/
def State.setPort (s : State) (a : Agent) (p : Port) : State :=
  { s with
    host := match a with
      | .host => p
      | .transport => s.host
    transport := match a with
      | .host => s.transport
      | .transport => p }

/-- `respond(r)` (R14): hand the response to the agent that issued the operation. -/
def State.respond (s : State) (r : Response) : State :=
  s.setPort s.issuer { s.port s.issuer with resp := some r }

/-- `respond(RSP_OK)` with no other field (R85). -/
def rspOk : Response := { code := .ok }

/-- The response to a status request (R85, R144, R160). -/
def State.statusResponse (s : State) (rxAvail cmdSent : Bool) : Response :=
  { code := .ok, sniff := some (s.sniff rxAvail cmdSent), rxovf := some s.rxovf,
    count := some s.cfq.length }

/-- What the block meets next (log 1): the next event of the total order of R60. An operation is the first
one its agent has still to issue, so each agent's own order is kept (R59). -/
def State.fetch (s : State) : Fetched :=
  match s.events with
  | [] => .idle
  | .powerOn :: rest => .powerOn { s with events := rest }
  | .op a :: rest =>
    match (s.port a).pending with
    | [] => .skip { s with events := rest }
    | w :: ws =>
      .command w ({ s with events := rest, issuer := a }.setPort a { s.port a with pending := ws })

/-- A reserved command word (R86): nothing changes, and the response is `RSP_ERR_OP` with no other field
(log 6). -/
def execReserved (s : State) : Host.Outcome State Fault Refusal :=
  .next (s.respond { code := .errOp })

end Sys2Proof.Machine
end

