-- ==== Sys2Proof/Machine/CrcOps.lean ====
section
/-! DEFINITION. The checksum operations CRC.INIT, CRC.UPDATE, CRC.READ (spec/40_crc_ops.md R100, R101,
R104). None touches any element but `CRC`, writes a flag, or can fail. -/

namespace Sys2Proof.Machine

/-- CRC.INIT (R100): `CRC <- 0xFFFF; respond(RSP_OK)`. -/
def execCrcInit (s : State) : Host.Outcome State Fault Refusal :=
  .next ({ s with crc := Config.crcInit }.respond rspOk)

/-- CRC.UPDATE b (R101): `CRC <- CrcStep(CRC, b); respond(RSP_OK)`. -/
def execCrcUpdate (b : Byte) (s : State) : Host.Outcome State Fault Refusal :=
  .next ({ s with crc := crcStep s.crc b }.respond rspOk)

/-- CRC.READ (R104): `respond(RSP_OK, crc = CRC)`, the register as it stands, with no final XOR. -/
def execCrcRead (s : State) : Host.Outcome State Fault Refusal :=
  .next (s.respond { code := .ok, crc := some s.crc })

end Sys2Proof.Machine
end

