-- ==== Sys2Proof/Machine/FramerIo.lean ====
section
/-! DEFINITION. The framer's input, output and control operations FRM.RXBYTE, FRM.POP, FRM.STATUS and
BLK.RESET (spec/42_framer_io_ops.md R140 to R146). -/

namespace Sys2Proof.Machine

/-- FRM.RXBYTE b (R140, R141): queue the byte, or, when the backlog is full, drop it and set `RXOVF`;
`RSP_OK` either way. -/
def execFrmRxbyte (b : Byte) (s : State) : Host.Outcome State Fault Refusal :=
  .next ((if s.raw.length < s.params.rawCap then s.pushRaw b else s.setRxovf).respond rspOk)

/-- FRM.POP (R142): return and remove the head of the queue, or `RSP_EMPTY`. -/
def execFrmPop (s : State) : Host.Outcome State Fault Refusal :=
  match s.cfq with
  | [] => .next (s.respond { code := .empty })
  | f :: rest => .next ({ s with cfq := rest }.respond { code := .ok, frame := some f })

/-- FRM.STATUS rx_avail, cmd_sent (R144): report, change nothing. -/
def execFrmStatus (rxAvail cmdSent : Bool) (s : State) : Host.Outcome State Fault Refusal :=
  .next (s.respond (s.statusResponse rxAvail cmdSent))

/-- BLK.RESET (R146): every element to its reset value, then `RSP_OK`. -/
def execBlkReset (s : State) : Host.Outcome State Fault Refusal :=
  .next (s.resetBlock.respond rspOk)

end Sys2Proof.Machine
end

