-- ==== Sys2Proof/Machine/FramerTick.lean ====
section
/-! DEFINITION. The framer's tick, FRM.TICK (spec/43_framer_tick.md R160 to R168): which of the four
actions a pass carries out, the pass, the loop, the flush, the operation. -/

namespace Sys2Proof.Machine

/-- The condition of step 2 (R164): a sentinel at the head, a non-empty accumulator shorter than its
expected length and not longer than `FRAME_MAX_LEN`. -/
def State.mergeCond (s : State) : Bool :=
  sentAtHead s.raw && decide (0 < s.acc.length) && shorterThan s.acc.length (explen s.acc) &&
    decide (s.acc.length ≤ s.params.frameMaxLen)

/-- The condition step 3 adds to step 2's failing (R165). -/
def State.closeCond (s : State) : Bool := sentAtHead s.raw && decide (0 < s.acc.length)

/-- Where step 4 splits, if it applies (R166): the first embedded sentinel of an over-long accumulator. -/
def State.splitPoint (s : State) : Option Nat :=
  if longerThan s.acc.length (explen s.acc) then embeddedAt s.acc else none

/-- The action of a pass (R161): the first of steps 2, 3, 4, 5 whose condition holds. -/
def State.tickStep (s : State) : TickStep :=
  if s.mergeCond then .merge
  else if s.closeCond then .close
  else match s.splitPoint with
    | some p => .split p
    | none => .append

/-- Step 2's action (R164): the two sentinel bytes go from `RAW` to `ACC`. -/
def State.tickMerge (s : State) : State :=
  { s with raw := s.raw.drop Config.sentinelLen, acc := s.acc ++ s.raw.take Config.sentinelLen }

/-- Step 3's action (R165): `PushFrame(ACC); ACC <- []`; the sentinel stays in `RAW`. -/
def State.tickClose (s : State) : State := { s.pushFrame s.acc with acc := [] }

/-- Step 4's action (R166): `PushFrame(ACC[0 .. p-1]); ACC <- ACC[p ..]`. -/
def State.tickSplit (s : State) (p : Nat) : State :=
  { s.pushFrame (s.acc.take p) with acc := s.acc.drop p }

/-- Step 5's action (R167): one byte goes from `RAW` to `ACC`. -/
def State.tickAppend (s : State) : State :=
  { s with raw := s.raw.drop 1, acc := s.acc ++ s.raw.take 1 }

/-- One pass of the loop (R161). -/
def State.tickPass (s : State) : State :=
  match s.tickStep with
  | .merge => s.tickMerge
  | .close => s.tickClose
  | .split p => s.tickSplit p
  | .append => s.tickAppend

/-- `while |RAW| > 0`, for at most `n` passes. -/
def State.tickLoop : Nat → State → State
  | 0, s => s
  | n + 1, s => if s.raw = [] then s else State.tickLoop n s.tickPass

/-- More passes than the loop can make (R171, log 14): a pass takes a byte from `RAW`, or hands a
non-empty piece of the bytes of `ACC` and `RAW` to `PushFrame`. -/
def State.tickFuel (s : State) : Nat := 2 * s.raw.length + s.acc.length

/-- Step 6 (R168): a non-empty accumulator is pushed and emptied. -/
def State.tickFlush (s : State) : State :=
  if 0 < s.acc.length then { s.pushFrame s.acc with acc := [] } else s

/-- What a tick does to the state (R160), its response left out. -/
def State.tick (s : State) : State := (State.tickLoop s.tickFuel s).tickFlush

/-- FRM.TICK rx_avail, cmd_sent (R160): the status answered is that of the state after step 6. -/
def execFrmTick (rxAvail cmdSent : Bool) (s : State) : Host.Outcome State Fault Refusal :=
  .next (s.tick.respond (s.tick.statusResponse rxAvail cmdSent))

end Sys2Proof.Machine
end

