-- ==== Sys2Proof/Machine/Dispatch.lean ====
section
/-! DEFINITION. One arm per operation, each one direct call of its meaning. -/

namespace Sys2Proof.Machine

def exec (i : Instr) (s : State) : Host.Outcome State Fault Refusal :=
  match i with
  | .crcInit => Sys2Proof.Machine.execCrcInit s
  | .crcUpdate b => Sys2Proof.Machine.execCrcUpdate b s
  | .crcRead => Sys2Proof.Machine.execCrcRead s
  | .frmRxbyte b => Sys2Proof.Machine.execFrmRxbyte b s
  | .frmTick rxAvail cmdSent => Sys2Proof.Machine.execFrmTick rxAvail cmdSent s
  | .frmPop => Sys2Proof.Machine.execFrmPop s
  | .frmStatus rxAvail cmdSent => Sys2Proof.Machine.execFrmStatus rxAvail cmdSent s
  | .blkReset => Sys2Proof.Machine.execBlkReset s

end Sys2Proof.Machine
end

