-- ==== Sys2Proof/Machine/Step.lean ====
section
/-! DEFINITION. One step of the machine: the next event of the total order of spec/20_memory.md R60 is
carried out whole. With nothing to carry out the block holds its state (spec/60_exceptions.md R210,
log 7). -/

namespace Sys2Proof.Machine

/-- One step: decode and carry out the next command word; power-on resets the block (R220). -/
def step (s : State) : Host.Outcome State Fault Refusal :=
  match s.fetch with
  | .idle => .next s
  | .skip t => .next t
  | .powerOn t => .next t.resetBlock
  | .command w t =>
    match decode w with
    | .ok i => exec i t
    | .error _ => execReserved t

/-- `s` with the command word of bits `w` as the host's next operation, and the host's turn next (log 2,
log 9). The block does not check which agent issues an operation (R84, R208). -/
def State.withFetchWord (s : State) (_nbits w : Nat) : State :=
  { s with
    events := .op .host :: s.events
    host := { s.host with pending := BitVec.ofNat 12 w :: s.host.pending } }

end Sys2Proof.Machine
end

