-- ==== Sys2Proof/Machine/CrcForms.lean ====
section
/-! DEFINITION. The other forms of the checksum step that spec/40_crc_ops.md states beside the normative
shift register of R101: the loop-free nibble form (R102), the table form (R103), and the inverse of one
turn (R108). No meaning uses them; statements compare them with `crcStep`. -/

namespace Sys2Proof.Machine

/-- The low nibble of the mixed byte XORed into its high nibble (R102). -/
def nibbleMix (t : Byte) : Byte := t ^^^ (t <<< 4)

/-- `CrcStep` in the loop-free form of R102. -/
def crcStepNibble (c : Word) (b : Byte) : Word :=
  let t := nibbleMix (b ^^^ loByte c)
  (c >>> 8) ^^^ (zext16 t <<< 8) ^^^ (zext16 t <<< 3) ^^^ zext16 (t >>> 4)

/-- `Tab[i] = CrcStep(0x0000, i)` (R103). -/
def crcTab (i : Byte) : Word := crcStep 0x0000#16 i

/-- `CrcStep` in the table form of R103. -/
def crcStepTable (c : Word) (b : Byte) : Word := (c >>> 8) ^^^ crcTab (loByte c ^^^ b)

/-- The inverse of one turn (R108). -/
def crcTurnInv (c : Word) : Word :=
  if c.getLsbD 15 then ((c ^^^ Config.crcPoly) <<< 1) ||| 1#16 else c <<< 1

end Sys2Proof.Machine
end

