-- ==== Sys2Proof/Machine/Pseudo.lean ====
section
/-! DEFINITION. The six pseudo-operations (spec/30_encoding.md R92, spec/41_frame_ops.md R120 to R127):
fixed sequences of checksum operations, carried out by `exec`, and host-side steps over the host's
buffer `FB`, a list of bytes that is an argument and, where it is written, a result; it is no state of
the block (R32). A buffer outside a pseudo-operation's operand range has no result (U17, log 12). That
other operations may fall between those of a sequence is the business of `step`, not of these functions
(log 16). -/

namespace Sys2Proof.Machine

/-- Operations carried out one after the other, stopping at the first that gives no next state. -/
def runOps : List Instr → State → Host.Outcome State Fault Refusal
  | [], s => .next s
  | i :: is, s =>
    match exec i s with
    | .next t => runOps is t
    | .fault r => .fault r
    | .refused r => .refused r

/-- The expansion of CRC.COMPUTE FB[i .. e-1] (R92, R120). -/
def crcComputeOps (fb : List Byte) (i e : Nat) : List Instr :=
  .crcInit :: ((slice fb i e).map .crcUpdate ++ [.crcRead])

/-- CRC.COMPUTE FB[i .. e-1] (R120), issued by the host: the state it leaves, and the `crc` field of the
last response. The range is empty when `e = i` and lies within the buffer. -/
def crcCompute (fb : List Byte) (i e : Nat) (s : State) : Option (State × Word) :=
  if i ≤ e ∧ e ≤ fb.length then
    match runOps (crcComputeOps fb i e) { s with issuer := .host } with
    | .next t => (t.host.resp.bind (·.crc)).map (fun c => (t, c))
    | .fault _ => none
    | .refused _ => none
  else none

/-- FRAME.EXPLEN FB, n (R122): the function the framer evaluates on `ACC`, offered to the host. -/
def frameExplen (fb : List Byte) : Option Nat := explen fb

/-- FRAME.SEAL FB, n (R123): the checksum of all bytes but the last two, stored big-endian in the last
two. Its operand range is `n >= 2`. -/
def frameSeal (fb : List Byte) (s : State) : Option (State × List Byte) :=
  if Config.crcLen ≤ fb.length then
    (crcCompute fb 0 (fb.length - Config.crcLen) s).map
      (fun r => (r.1, memWrite2 fb (fb.length - Config.crcLen) r.2))
  else none

/-- FRAME.VERIFY FB, n (R125): the computed checksum against the stored one. Its operand range is
`n >= 2`. -/
def frameVerify (fb : List Byte) (s : State) : Option (State × Check) :=
  if Config.crcLen ≤ fb.length then
    match crcCompute fb 0 (fb.length - Config.crcLen) s,
        memRead2 fb (fb.length - Config.crcLen) with
    | some (t, c), some stored => some (t, if c = stored then .ok else .errCrc)
    | _, _ => none
  else none

/-- FRAME.LENCHK FB, n (R126): the buffer's length against the declared one; the sentinel is not looked
at. Its operand range is `n >= 4`. -/
def frameLenchk (fb : List Byte) : Option Check :=
  (declaredTotal fb).map (fun e => if fb.length = e then .ok else .errLen)

/-- FRAME.CHECK (R127) with the two checks that R127 leaves a place for given as parameters (U15,
log 13): the guard, the checksum, the type code, the declared length, the kind's own constraints; the
first failing check is the result. -/
def frameCheckWith (typeCheck kindCheck : List Byte → Check) (fb : List Byte) (s : State) :
    Option (State × Check) :=
  if fb.length < Config.minFrameLen then some (s, .errLen)
  else
    match frameVerify fb s with
    | none => none
    | some (t, .ok) =>
      match typeCheck fb with
      | .ok =>
        match frameLenchk fb with
        | none => none
        | some .ok => some (t, kindCheck fb)
        | some r => some (t, r)
      | r => some (t, r)
    | some (t, r) => some (t, r)

/-- FRAME.CHECK FB, n (R127): the checks of the kind being decoded are out of scope, taken as passing. -/
def frameCheck (fb : List Byte) (s : State) : Option (State × Check) :=
  frameCheckWith (fun _ => .ok) (fun _ => .ok) fb s

end Sys2Proof.Machine
end

