-- ==== Sys2Proof/Safety.lean ====
section
/-! DEFINITION. What claims speak of: the invariants of spec/10_state.md R29, what a tick hands to
`PushFrame` (spec/43_framer_tick.md R170) and by which step, header look-alikes
(spec/70_reset_and_hazards.md R234), the two units' operations (spec/20_memory.md R60), and the parts of
the state a claim about "any element" names. Nothing here is used by the machine. -/

namespace Sys2Proof

/-- The operations of the checksum unit (R80). -/
def Instr.isCrc : Instr → Bool
  | .crcInit => true
  | .crcUpdate _ => true
  | .crcRead => true
  | .frmRxbyte _ => false
  | .frmTick _ _ => false
  | .frmPop => false
  | .frmStatus _ _ => false
  | .blkReset => false

/-- The operations of the framer (R80). -/
def Instr.isFramer : Instr → Bool
  | .crcInit => false
  | .crcUpdate _ => false
  | .crcRead => false
  | .frmRxbyte _ => true
  | .frmTick _ _ => true
  | .frmPop => true
  | .frmStatus _ _ => true
  | .blkReset => false

end Sys2Proof

namespace Sys2Proof.Machine

/-- The invariants I1 to I4 of R29, and the constraints of R8 on the parameters. -/
abbrev State.Inv (s : State) : Prop :=
  s.params.wf = true ∧ s.raw.length ≤ s.params.rawCap ∧ s.acc = [] ∧
    s.cfq.length ≤ s.params.fqCap ∧
    ∀ f ∈ s.cfq, 1 ≤ f.length ∧ f.length ≤ s.params.rawCap

/-- The five elements of the block (R20) agree. -/
abbrev SameBlock (s t : State) : Prop :=
  s.crc = t.crc ∧ s.raw = t.raw ∧ s.acc = t.acc ∧ s.cfq = t.cfq ∧ s.rxovf = t.rxovf

/-- The framer's four elements agree (R20; every element but `CRC`). -/
abbrev SameFramer (s t : State) : Prop :=
  s.raw = t.raw ∧ s.acc = t.acc ∧ s.cfq = t.cfq ∧ s.rxovf = t.rxovf

/-- What is not the block's own state agrees, but for the response just handed to the issuer `a`: the
parameters, the agents' pending operations, the other agent's response, the events, the issuer. -/
abbrev SameAround (a : Agent) (s t : State) : Prop :=
  s.params = t.params ∧ s.events = t.events ∧ s.issuer = t.issuer ∧
    s.host.pending = t.host.pending ∧ s.transport.pending = t.transport.pending ∧
    (a ≠ .host → s.host.resp = t.host.resp) ∧ (a ≠ .transport → s.transport.resp = t.transport.resp)

/-- The response last handed to the issuer. -/
def State.answer (s : State) : Option Response := (s.port s.issuer).resp

/-- The newest `cap` frames of a queue: what capacity leaves of it (R163). -/
def newest (cap : Nat) (q : List (List Byte)) : List (List Byte) := q.drop (q.length - cap)

/-- What a pass hands to `PushFrame`, with the step that did (R165, R166). -/
def State.passCuts (s : State) : List (TickStep × List Byte) :=
  match s.tickStep with
  | .merge => []
  | .close => [(.close, s.acc)]
  | .split p => [(.split p, s.acc.take p)]
  | .append => []

/-- What at most `n` passes of the loop hand to `PushFrame`, in order. -/
def State.loopCuts : Nat → State → List (TickStep × List Byte)
  | 0, _ => []
  | n + 1, s => if s.raw = [] then [] else s.passCuts ++ State.loopCuts n s.tickPass

/-- The actions of the passes, in order: the step trace of spec/95_test_vectors.md part 5. -/
def State.loopTrace : Nat → State → List TickStep
  | 0, _ => []
  | n + 1, s => if s.raw = [] then [] else s.tickStep :: State.loopTrace n s.tickPass

/-- What the loop of a tick hands to `PushFrame`, in order, before step 6. -/
def State.tickCuts (s : State) : List (TickStep × List Byte) := State.loopCuts s.tickFuel s

/-- The actions of a tick's passes, in order. -/
def State.tickTrace (s : State) : List TickStep := State.loopTrace s.tickFuel s

/-- What step 6 hands to `PushFrame` (R168). -/
def State.flushed (s : State) : List (List Byte) :=
  if 0 < (State.tickLoop s.tickFuel s).acc.length then [(State.tickLoop s.tickFuel s).acc] else []

/-- The candidates a tick hands to `PushFrame`, in order (R170). -/
def State.tickCandidates (s : State) : List (List Byte) := s.tickCuts.map (·.2) ++ s.flushed

/-- The state after `k` passes, whether or not bytes are left. -/
def State.passes : Nat → State → State
  | 0, s => s
  | k + 1, s => State.passes k s.tickPass

/-- A header look-alike (R173, R234): the sentinel pair at index 2 or at index 3. -/
def lookAlike (f : List Byte) : Bool := pairAt f 2 || pairAt f 3

/-- A frame of a clean stream (R173): well formed, no longer than `FRAME_MAX_LEN`, no look-alike. -/
def cleanFrame (p : Params) (f : List Byte) : Bool :=
  Frame.wf f && decide (f.length ≤ p.frameMaxLen) && !lookAlike f

/-- The sentinel pair stands at no index from 1 up (R174). -/
def noInnerPair (a : List Byte) : Bool := (embeddedAt a).isNone

/-- A byte with bit `k` inverted. -/
def flipBit (b : Byte) (k : Nat) : Byte := b ^^^ (1#8 <<< k)

/-- A sequence with bit `k` of byte `i` inverted (R109). -/
def flipAt (s : List Byte) (i k : Nat) : List Byte := s.modify i (flipBit · k)

/-- Two sequences XORed byte by byte (R107). -/
def xorBytes (s e : List Byte) : List Byte := List.zipWith (· ^^^ ·) s e

/-- The transport's operations for the received bytes `bs`: one FRM.RXBYTE per byte, in order (R140). -/
def rxBytes (bs : List Byte) : List Instr := bs.map .frmRxbyte

end Sys2Proof.Machine
end

