-- ==== Sys2Proof/Certificates/Slice0/Obligations.lean ====
section
/-! DEFINITION. The statements for the provers, from the numbered rules of spec/. A conclusion of the form
`exec i s = .next t` is a completion statement: it says that the operation runs in every state that meets
the hypotheses, and what it leaves. `runOps` carries out a sequence of operations with nothing between
them (log 16). -/

open Sys2Proof Sys2Proof.Machine

/-! ### Encoding -/

/-- R81, R82, R84: the word of every operation decodes to that operation, with every operand value, and
every word that decodes is the word of the operation it decodes to. -/
def Obligations.DecodeEncodeAgree : Prop :=
  (∀ i : Instr, i.wf = true → decode (encode i) = .ok i) ∧
  (∀ (w : CmdWord) (i : Instr), decode w = .ok i → encode i = w)

/-- R84: a word selects a row of the opcode map exactly when the decoder reads that row's operation from
it, and no word selects two rows. -/
def Obligations.DecodeSelectsOpcodeRow : Prop :=
  (∀ r ∈ opcodeTable, ∀ w : CmdWord,
    w &&& r.mask = r.matchWord ↔ ∃ i, decode w = .ok i ∧ i.mnemonic = r.mnemonic) ∧
  opcodeTable.Pairwise (fun r q => ∀ w : CmdWord, ¬ (w &&& r.mask = r.matchWord ∧ w &&& q.mask = q.matchWord))

/-- 95_test_vectors.md part 6: words written out from the encoding decode to the operations they stand
for. -/
def Obligations.WrittenWordsDecode : Prop :=
  decode 0b000100000000#12 = .ok .crcInit ∧
  decode 0b001000110001#12 = .ok (.crcUpdate 0x31#8) ∧
  decode 0b001011111111#12 = .ok (.crcUpdate 0xFF#8) ∧
  decode 0b001100000000#12 = .ok .crcRead ∧
  decode 0b010010100000#12 = .ok (.frmRxbyte 0xA0#8) ∧
  decode 0b010100000001#12 = .ok (.frmTick true false) ∧
  decode 0b010100000010#12 = .ok (.frmTick false true) ∧
  decode 0b011000000000#12 = .ok .frmPop ∧
  decode 0b011100000001#12 = .ok (.frmStatus true false) ∧
  decode 0b100000000000#12 = .ok .blkReset

/-- R86: which words are reserved (cases (a), (b), (c)) and how many; a reserved word changes no state,
samples no input, and is answered `RSP_ERR_OP` with no other field. How a word reaches the block (the
events and the agents' queues) is the model's choice, log 1, log 6. -/
def Obligations.ReservedWordOnlyAnswersErrOp : Prop :=
  (∀ w : CmdWord, (∃ e, decode w = .error e) ↔
    (w.toNat / 256 = 0 ∨ 9 ≤ w.toNat / 256) ∨
    (w.toNat / 256 ∈ [1, 3, 6, 8] ∧ w.toNat % 256 ≠ 0) ∨
    (w.toNat / 256 ∈ [5, 7] ∧ w.toNat % 256 / 4 ≠ 0)) ∧
  (List.range 4096).countP (fun n => (decode (BitVec.ofNat 12 n)).toOption.isNone) = 3572 ∧
  (List.range 4096).countP (fun n => (decode (BitVec.ofNat 12 n)).toOption.isSome) = 524 ∧
  (∀ (s : State) (a : Agent) (rest : List Event) (w : CmdWord) (ws : List CmdWord) (e : Reserved),
    s.events = .op a :: rest → (s.port a).pending = w :: ws → decode w = .error e →
    ∃ t, step s = .next t ∧ SameBlock s t ∧ t.params = s.params ∧
      t.port a = ⟨ws, some ⟨.errOp, none, none, none, none, none⟩⟩ ∧
      ∀ b, b ≠ a → t.port b = s.port b)

/-! ### The step -/

/-- R22, R60 (the agents' queues and the events are the model's, log 1): when the next event is the turn
of an agent whose first word decodes to `i`, the step is `exec i` in the state from which that event and
that word have been taken; and a word placed with `withFetchWord` is what the next step runs (the
model's own entry, log 2). -/
def Obligations.StepRunsDecodedInstruction : Prop :=
  (∀ (s : State) (a : Agent) (rest : List Event) (w : CmdWord) (ws : List CmdWord) (i : Instr),
    s.events = .op a :: rest → (s.port a).pending = w :: ws → decode w = .ok i →
    step s =
      exec i ({ s with events := rest, issuer := a }.setPort a { s.port a with pending := ws })) ∧
  (∀ (s : State) (nbits w : Nat) (i : Instr), decodeTableWord nbits w = some i →
    step (s.withFetchWord nbits w) = exec i { s with issuer := .host })

/-- R200, R203, R205: nothing faults, and nothing is refused. -/
def Obligations.EveryStepAnswersNext : Prop :=
  (∀ s : State, ∃ t, step s = .next t) ∧ (∀ (i : Instr) (s : State), ∃ t, exec i s = .next t)

/-- R210, R220 (the events are the model's, log 1 and log 5): with nothing to carry out the state is held;
an agent's turn with no operation to issue changes nothing but the events; power-on gives the five
elements their reset values and leaves the rest. -/
def Obligations.IdleHoldsAndPowerOnResets : Prop :=
  (∀ s : State, s.events = [] → step s = .next s) ∧
  (∀ (s : State) (a : Agent) (rest : List Event), s.events = .op a :: rest → (s.port a).pending = [] →
    step s = .next { s with events := rest }) ∧
  (∀ (s : State) (rest : List Event), s.events = .powerOn :: rest →
    step s = .next
      { s with events := rest, crc := 0xFFFF#16, raw := [], acc := [], cfq := [], rxovf := false })

/-- R59, R60 (queues and events are the model's, log 1): whatever the interleaving, after `n` steps the
operations an agent has issued are the first ones of its own order, one for each of its turns, and the
parameters are as they were (R222). -/
def Obligations.InterleavingKeepsEachAgentsOrder : Prop :=
  ∀ (n : Nat) (s t : State), Host.Core.run Sys2Proof.core n s = .next t →
    t.events = s.events.drop n ∧ t.params = s.params ∧
    ∀ a : Agent,
      (t.port a).pending = (s.port a).pending.drop ((s.events.take n).count (.op a))

/-- R60, R14, R86 (queues and events are the model's, log 1, log 6): a step of an agent's turn hands
that agent, and no other, one response, and it is the one the operation itself answers: `exec` of the
decoded operation gives the same state, response included, when the agent holds no response before it; a
reserved word's is `RSP_ERR_OP`. -/
def Obligations.StepAnswersItsIssuerOnly : Prop :=
  ∀ (s t : State) (a : Agent) (rest : List Event) (w : CmdWord) (ws : List CmdWord),
    s.events = .op a :: rest → (s.port a).pending = w :: ws → step s = .next t →
    t.issuer = a ∧ t.events = rest ∧ (t.port a).pending = ws ∧
    (∀ b, b ≠ a → t.port b = s.port b) ∧
    ∃ r, (t.port a).resp = some r ∧
      (∀ i, decode w = .ok i →
        exec i ({ s with events := rest, issuer := a }.setPort a ⟨ws, none⟩) = .next t) ∧
      (∀ e, decode w = .error e → r = ⟨.errOp, none, none, none, none, none⟩)

/-- R60 (queues and events are the model's, log 1): the words of a sequence of operations, issued by the
host with nothing between, run step by step to the state the sequence of meanings leaves. -/
def Obligations.HostProgramRunsInOrder : Prop :=
  ∀ (is : List Instr) (s : State) (more : List CmdWord) (rest : List Event), is ≠ [] →
    s.host.pending = is.map encode ++ more →
    s.events = List.replicate is.length (.op .host) ++ rest →
    Host.Core.run Sys2Proof.core is.length s =
      runOps is { s with events := rest, issuer := .host, host := { s.host with pending := more } }

/-! ### Reset -/

/-- R33, R220: the five elements after reset, for an instance with any parameters, for the state the
machine starts in, and after BLK.RESET from any state. -/
def Obligations.ResetGivesStatedValues : Prop :=
  (∀ p : Params,
    (State.resetWith p).crc = 0xFFFF#16 ∧ (State.resetWith p).raw = [] ∧
    (State.resetWith p).acc = [] ∧ (State.resetWith p).cfq = [] ∧
    (State.resetWith p).rxovf = false) ∧
  SameBlock State.reset (State.resetWith State.reset.params) ∧
  (∀ s t : State, exec .blkReset s = .next t → SameBlock t State.reset)

/-- R146: BLK.RESET. -/
def Obligations.BlkResetResult : Prop :=
  encode .blkReset = 0x800#12 ∧
  ∀ s : State, exec .blkReset s =
    .next ({ s with crc := 0xFFFF#16, raw := [], acc := [], cfq := [], rxovf := false }.respond
      { code := .ok })

/-! ### The checksum operations -/

/-- R100: CRC.INIT, and that two in a row leave what one leaves. -/
def Obligations.CrcInitResult : Prop :=
  encode .crcInit = 0x100#12 ∧
  (∀ s : State, exec .crcInit s = .next ({ s with crc := 0xFFFF#16 }.respond { code := .ok })) ∧
  (∀ s t : State, exec .crcInit s = .next t → exec .crcInit t = .next t)

/-- R101: CRC.UPDATE b is the XOR of the byte into the low byte of the register and eight turns of the
shift register, written out here; its corner cases. -/
def Obligations.CrcUpdateIsEightTurns : Prop :=
  (∀ b : Byte, encode (.crcUpdate b) = 0x200#12 ||| b.setWidth 12) ∧
  (∀ (b : Byte) (s : State), exec (.crcUpdate b) s =
    .next ({ s with
      crc := (fun c : Word => if c.getLsbD 0 then (c >>> 1) ^^^ 0x8408#16 else c >>> 1)^[8]
        (s.crc ^^^ b.setWidth 16) }.respond { code := .ok })) ∧
  (∀ (b : Byte) (c : Word), (c ^^^ b.setWidth 16).extractLsb' 8 8 = c.extractLsb' 8 8) ∧
  (∀ (c : Word) (b : Byte), crcStep c b = crcStep (c ^^^ b.setWidth 16) 0x00#8) ∧
  crcStep 0x0000#16 0x00#8 = 0x0000#16 ∧ crcStep 0xFFFF#16 0xFF#8 = 0x00FF#16 ∧
  crcStep 0x1234#16 0x34#8 = 0x0012#16 ∧ crcStep 0x1200#16 0x00#8 = 0x0012#16 ∧
  (List.range 9).map (fun n => crcTurns n (0xFFFF#16 ^^^ (0x31#8).setWidth 16)) =
    [0xFFCE#16, 0x7FE7#16, 0xBBFB#16, 0xD9F5#16, 0xE8F2#16, 0x7479#16, 0xBE34#16, 0x5F1A#16,
     0x2F8D#16] ∧
  crcStep 0xFFFF#16 0x31#8 = 0x2F8D#16

/-- R104: CRC.READ returns the register as it stands and leaves it; after CRC.INIT and after reset that is
0xFFFF. -/
def Obligations.CrcReadResult : Prop :=
  encode .crcRead = 0x300#12 ∧
  (∀ s : State, exec .crcRead s = .next (s.respond { code := .ok, crc := some s.crc })) ∧
  (∀ s t : State, exec .crcInit s = .next t →
    exec .crcRead t = .next (t.respond { code := .ok, crc := some 0xFFFF#16 })) ∧
  (∀ p : Params, exec .crcRead (State.resetWith p) =
    .next ((State.resetWith p).respond { code := .ok, crc := some 0xFFFF#16 })) ∧
  (∀ s : State, ∃ t, runOps [.crcInit, .crcUpdate 0x31#8, .crcRead] s = .next t ∧
    t.answer = some { code := .ok, crc := some 0x2F8D#16 })

/-- R102: the loop-free nibble form gives the same step for every register value and every byte. -/
def Obligations.NibbleFormEqualsCrcStep : Prop :=
  (∀ (c : Word) (b : Byte), crcStepNibble c b = crcStep c b) ∧
  nibbleMix 0xCE#8 = 0x2E#8 ∧ crcStepNibble 0xFFFF#16 0x31#8 = 0x2F8D#16

/-- R103: the table form gives the same step, `Tab[i]` being the step from 0; entries of the table. -/
def Obligations.TableFormEqualsCrcStep : Prop :=
  (∀ (c : Word) (b : Byte), crcStep c b = (c >>> 8) ^^^ crcStep 0x0000#16 (loByte c ^^^ b)) ∧
  crcTab 0x00#8 = 0x0000#16 ∧ crcTab 0x01#8 = 0x1189#16 ∧ crcTab 0x02#8 = 0x2312#16 ∧
  crcTab 0x03#8 = 0x329B#16 ∧ crcTab 0x80#8 = 0x8408#16 ∧ crcTab 0xFF#8 = 0x0F78#16

/-- R105: the checksum of a byte sequence, by its recursion; CRC.INIT, one CRC.UPDATE per byte and
CRC.READ return it and change nothing but `CRC`; a message may be fed in pieces with reads between;
the examples. -/
def Obligations.ReadReturnsCrc16OfWhatWasFed : Prop :=
  crc16 [] = 0xFFFF#16 ∧
  (∀ (s : List Byte) (b : Byte), crc16 (s ++ [b]) = crcStep (crc16 s) b) ∧
  (∀ c : Word, crcFold c [] = c) ∧
  (∀ (c : Word) (s : List Byte) (b : Byte), crcFold c (s ++ [b]) = crcStep (crcFold c s) b) ∧
  (∀ s : List Byte, crc16 s = crcFold 0xFFFF#16 s) ∧
  (∀ (c : Word) (s t : List Byte), crcFold c (s ++ t) = crcFold (crcFold c s) t) ∧
  (∀ (bs : List Byte) (s : State), ∃ t,
    runOps (.crcInit :: (bs.map .crcUpdate ++ [.crcRead])) s = .next t ∧
    t.crc = crc16 bs ∧ t.answer = some { code := .ok, crc := some (crc16 bs) } ∧
    SameFramer s t ∧ SameAround s.issuer s t) ∧
  (∀ (bs cs : List Byte) (s : State), ∃ t,
    runOps (.crcInit :: (bs.map .crcUpdate ++ .crcRead :: (cs.map .crcUpdate ++ [.crcRead]))) s
      = .next t ∧
    t.answer = some { code := .ok, crc := some (crc16 (bs ++ cs)) }) ∧
  crc16 [0x00#8] = 0x0F87#16 ∧ crc16 [0xFF#8] = 0x00FF#16 ∧ crc16 [0xFF#8, 0xFF#8] = 0x0000#16 ∧
  crc16 [0xA0#8, 0x00#8] = 0x5F47#16 ∧
  crc16 [0x31#8, 0x32#8, 0x33#8, 0x34#8, 0x35#8, 0x36#8, 0x37#8, 0x38#8, 0x39#8] = 0x6F91#16

/-- R107: the step, the fold and the checksum are linear. -/
def Obligations.ChecksumIsLinear : Prop :=
  (∀ (c1 c2 : Word) (b1 b2 : Byte),
    crcStep (c1 ^^^ c2) (b1 ^^^ b2) = crcStep c1 b1 ^^^ crcStep c2 b2) ∧
  crcStep 0x0000#16 0x00#8 = 0x0000#16 ∧
  (∀ (c1 c2 : Word) (s1 s2 : List Byte), s1.length = s2.length →
    crcFold (c1 ^^^ c2) (xorBytes s1 s2) = crcFold c1 s1 ^^^ crcFold c2 s2) ∧
  (∀ s e : List Byte, s.length = e.length →
    crc16 (xorBytes s e) = crc16 s ^^^ crcFold 0x0000#16 e)

/-- R108: the step is a bijection of the register for every byte, with the inverse of a turn written out;
different register values stay different under the same input; the fold from 0 of a sequence with
exactly one non-zero byte is not 0. -/
def Obligations.CrcStepIsBijective : Prop :=
  (∀ b : Byte, Function.Bijective (fun c : Word => crcStep c b)) ∧
  (∀ c : Word,
    (if (crcTurn c).getLsbD 15 then ((crcTurn c ^^^ 0x8408#16) <<< 1) ||| 1#16
     else crcTurn c <<< 1) = c) ∧
  (∀ (c1 c2 : Word) (s : List Byte), c1 ≠ c2 → crcFold c1 s ≠ crcFold c2 s) ∧
  (∀ (e : List Byte) (i : Nat) (b : Byte), e[i]? = some b → b ≠ 0x00#8 →
    (∀ (j : Nat) (c : Byte), j ≠ i → e[j]? = some c → c = 0x00#8) →
    crcFold 0x0000#16 e ≠ 0x0000#16)

/-- R109: inverting one bit anywhere changes the checksum, and so does any change of one byte; the
difference depends on nothing but the bit and its distance from the end; the eight differences of the
last byte; changes of more than one byte can leave the checksum the same. -/
def Obligations.SingleBitFlipChangesChecksum : Prop :=
  (∀ (s : List Byte) (i k : Nat), i < s.length → k < 8 → crc16 (flipAt s i k) ≠ crc16 s) ∧
  (∀ (s : List Byte) (i : Nat) (b : Byte), i < s.length → s[i]? ≠ some b →
    crc16 (s.set i b) ≠ crc16 s) ∧
  (∀ (s s' : List Byte) (i i' k : Nat), i < s.length → i' < s'.length →
    s.length - i = s'.length - i' →
    crc16 (flipAt s i k) ^^^ crc16 s = crc16 (flipAt s' i' k) ^^^ crc16 s') ∧
  (∀ (s : List Byte) (b : Byte),
    (List.range 8).map (fun k => crc16 (s ++ [flipBit b k]) ^^^ crc16 (s ++ [b])) =
      [0x1189#16, 0x2312#16, 0x4624#16, 0x8C48#16, 0x1081#16, 0x2102#16, 0x4204#16, 0x8408#16]) ∧
  (∃ s s' : List Byte, s.length = s'.length ∧ s ≠ s' ∧ crc16 s = crc16 s')

/-- R110: a message followed by its checksum low byte first leaves 0, from any register; followed by it high
byte first, the stored order, the register does not end at a constant: two sealed frames of the rule leave
0x8FE5 and 0x1866, a third sequence (95_test_vectors.md part 3.4) leaves 0. -/
def Obligations.ResidueIsConstantOnlyLowByteFirst : Prop :=
  (∀ (c : Word) (s : List Byte),
    crcFold c (s ++ [loByte (crcFold c s), hiByte (crcFold c s)]) = 0x0000#16) ∧
  (¬ ∃ k : Word, ∀ s : List Byte, crc16 (s ++ [hiByte (crc16 s), loByte (crc16 s)]) = k) ∧
  crc16 [0xA0#8, 0x00#8, 0x1C#8, 0x00#8, 0x9D#8, 0x2D#8] = 0x8FE5#16 ∧
  crc16 [0xA0#8, 0x00#8, 0x10#8, 0x02#8, 0x11#8, 0x22#8, 0x70#8, 0xF2#8] = 0x1866#16 ∧
  crc16 [0xFF#8, 0xFF#8, 0x00#8, 0x00#8] = 0x0000#16

/-! ### The frame pseudo-operations -/

/-- R120: CRC.COMPUTE over a range of the buffer gives the checksum of the range, leaves it in `CRC` and
touches no framer element; it issues two operations more than the range has bytes; framer operations
anywhere inside the sequence have no effect on it: wherever they stand, CRC.READ answers the checksum of
the range, and `CRC` holds it at the end. The range is `FB[i .. e-1]`. -/
def Obligations.ComputeGivesCrc16OfRange : Prop :=
  (∀ (fb : List Byte) (i e : Nat) (s : State), i ≤ e → e ≤ fb.length →
    ∃ t, crcCompute fb i e s = some (t, crc16 ((fb.drop i).take (e - i))) ∧
      t.crc = crc16 ((fb.drop i).take (e - i)) ∧ SameFramer s t ∧
      (crcComputeOps fb i e).length = (e - i) + 2) ∧
  (∀ (fb : List Byte) (i : Nat) (s : State), i ≤ fb.length →
    ∃ t, crcCompute fb i i s = some (t, 0xFFFF#16)) ∧
  (∀ (fb : List Byte) (i e : Nat) (ops : List Instr) (s : State), i ≤ e → e ≤ fb.length →
    ops.filter (·.isCrc) = crcComputeOps fb i e →
    (∀ o ∈ ops, o.isCrc = true ∨ o.isFramer = true) →
    ∃ t, runOps ops s = .next t ∧ t.crc = crc16 ((fb.drop i).take (e - i))) ∧
  (∀ (fb : List Byte) (i e : Nat) (ops after : List Instr) (s : State), i ≤ e → e ≤ fb.length →
    (ops ++ .crcRead :: after).filter (·.isCrc) = crcComputeOps fb i e →
    (∀ o ∈ ops ++ .crcRead :: after, o.isCrc = true ∨ o.isFramer = true) →
    ∃ t, runOps (ops ++ [.crcRead]) s = .next t ∧
      t.answer = some { code := .ok, crc := some (crc16 ((fb.drop i).take (e - i))) }) ∧
  (∀ s : State, ∃ t,
    crcCompute [0xA0#8, 0x00#8, 0x1C#8, 0x00#8] 0 4 s = some (t, 0x9D2D#16)) ∧
  crc16 [0xA0#8] = 0xAA8D#16 ∧ crc16 [0xA0#8, 0x00#8] = 0x5F47#16

/-- R122, R27: the expected length. -/
def Obligations.ExpectedLengthOfHeader : Prop :=
  (∀ (a : List Byte) (e : Nat), frameExplen a = some e ↔
    4 ≤ a.length ∧ a[0]? = some 0xA0#8 ∧ a[1]? = some 0x00#8 ∧
      ∃ len : Byte, a[3]? = some len ∧ e = 6 + len.toNat) ∧
  (∀ (a : List Byte) (e : Nat), frameExplen a = some e → 6 ≤ e ∧ e ≤ 261) ∧
  (∀ x : Byte, frameExplen [0xA0#8, 0x00#8, x] = none) ∧
  (∀ (x : Byte) (rest : List Byte),
    frameExplen (0xA0#8 :: 0x00#8 :: x :: 0xFF#8 :: rest) = some 261) ∧
  frameExplen [0xA0#8, 0x00#8, 0x10#8, 0x02#8, 0x11#8] = some 8 ∧
  (∀ n : Nat, shorterThan n none = false ∧ longerThan n none = false)

/-- R123: FRAME.SEAL keeps the body and stores the checksum of it big-endian in the last two bytes. -/
def Obligations.SealStoresChecksumBigEndian : Prop :=
  (∀ (fb : List Byte) (s : State), 2 ≤ fb.length →
    ∃ t, frameSeal fb s = some (t,
        fb.take (fb.length - 2) ++
          [(crc16 (fb.take (fb.length - 2))).extractLsb' 8 8,
           (crc16 (fb.take (fb.length - 2))).extractLsb' 0 8]) ∧
      t.crc = crc16 (fb.take (fb.length - 2)) ∧ SameFramer s t) ∧
  (∀ (x y : Byte) (s : State), ∃ t, frameSeal [x, y] s = some (t, [0xFF#8, 0xFF#8])) ∧
  (∃ body : List Byte, crc16 body = 0xA000#16) ∧
  (∀ (x y : Byte) (s : State), ∃ t, frameSeal [0xA0#8, 0x00#8, 0x1C#8, 0x00#8, x, y] s =
    some (t, [0xA0#8, 0x00#8, 0x1C#8, 0x00#8, 0x9D#8, 0x2D#8])) ∧
  (∀ (x y : Byte) (s : State), ∃ t,
    frameSeal [0xA0#8, 0x00#8, 0x10#8, 0x02#8, 0x11#8, 0x22#8, x, y] s =
      some (t, [0xA0#8, 0x00#8, 0x10#8, 0x02#8, 0x11#8, 0x22#8, 0x70#8, 0xF2#8])) ∧
  (∀ (x y : Byte) (s : State), ∃ t, frameSeal [0xA0#8, 0x00#8, 0x00#8, 0x00#8, x, y] s =
    some (t, [0xA0#8, 0x00#8, 0x00#8, 0x00#8, 0xA1#8, 0x1C#8])) ∧
  (List.range 7).map (fun n => crc16 ([0xA0#8, 0x00#8, 0x10#8, 0x02#8, 0x11#8, 0x22#8].take n)) =
    [0xFFFF#16, 0xAA8D#16, 0x5F47#16, 0x2665#16, 0x179F#16, 0x6D61#16, 0x70F2#16]

/-- R125: FRAME.VERIFY compares the checksum of all bytes but the last two with the big-endian value of
those two. -/
def Obligations.VerifyComparesStoredChecksum : Prop :=
  (∀ (body : List Byte) (hi lo : Byte) (s : State),
    ∃ t, frameVerify (body ++ [hi, lo]) s =
        some (t, if (crc16 body).toNat = hi.toNat * 256 + lo.toNat then .ok else .errCrc) ∧
      t.crc = crc16 body ∧ SameFramer s t) ∧
  (∀ s : State, ∃ t, frameVerify [0xFF#8, 0xFF#8] s = some (t, .ok)) ∧
  (∀ s : State, ∃ t,
    frameVerify [0x12#8, 0x34#8, 0x10#8, 0x01#8, 0x99#8, 0x39#8, 0x5B#8] s = some (t, .ok)) ∧
  (∀ s : State, ∃ t,
    frameVerify [0xA0#8, 0x00#8, 0x10#8, 0x02#8, 0x11#8, 0x22#8, 0x70#8, 0xF2#8] s = some (t, .ok)) ∧
  (∀ s : State, ∃ t,
    frameVerify [0xA0#8, 0x00#8, 0x10#8, 0x02#8, 0x11#8, 0x22#8, 0x70#8, 0xF3#8] s =
      some (t, .errCrc) ∧ t.crc = 0x70F2#16) ∧
  (∀ s : State, ∃ t,
    frameVerify [0xA0#8, 0x00#8, 0x10#8, 0x02#8, 0x11#8, 0x23#8, 0x70#8, 0xF2#8] s =
      some (t, .errCrc) ∧ t.crc = 0x617B#16)

/-- R126: FRAME.LENCHK compares naturals, and does not look at the sentinel. -/
def Obligations.LenchkComparesDeclaredLength : Prop :=
  (∀ (b0 b1 b2 len : Byte) (rest : List Byte),
    frameLenchk (b0 :: b1 :: b2 :: len :: rest) =
      some (if 4 + rest.length = 4 + len.toNat + 2 then .ok else .errLen)) ∧
  (∀ (b0 b1 b2 : Byte) (rest : List Byte),
    frameLenchk (b0 :: b1 :: b2 :: 0xFF#8 :: rest) = some .ok ↔ 4 + rest.length = 261) ∧
  frameLenchk [0xA0#8, 0x00#8, 0x10#8, 0x02#8, 0x11#8, 0x22#8, 0x70#8, 0xF2#8] = some .ok ∧
  frameLenchk [0xA0#8, 0x00#8, 0x10#8, 0x02#8, 0x11#8, 0x22#8, 0x33#8, 0xD7#8, 0xF5#8] = some .errLen

/-- R127: FRAME.CHECK returns the first failing check only: the guard, with nothing run; then the
checksum; then the declared length. The sentinel is not tested. -/
def Obligations.CheckReturnsFirstFailure : Prop :=
  (∀ (fb : List Byte) (s : State), fb.length < 6 → frameCheck fb s = some (s, .errLen)) ∧
  (∀ (b0 b1 b2 len : Byte) (mid : List Byte) (hi lo : Byte) (s : State),
    ∃ t, frameCheck (b0 :: b1 :: b2 :: len :: (mid ++ [hi, lo])) s =
        some (t,
          if (crc16 (b0 :: b1 :: b2 :: len :: mid)).toNat ≠ hi.toNat * 256 + lo.toNat then .errCrc
          else if 4 + mid.length + 2 ≠ 6 + len.toNat then .errLen
          else .ok) ∧
      t.crc = crc16 (b0 :: b1 :: b2 :: len :: mid) ∧ SameFramer s t) ∧
  (∀ s : State, ∃ t, frameCheck [0xA0#8, 0x00#8, 0x1C#8, 0x00#8, 0x9D#8, 0x2D#8] s = some (t, .ok)) ∧
  (∀ s : State, frameCheck [0xA0#8, 0x00#8, 0x10#8, 0x02#8, 0x11#8] s = some (s, .errLen)) ∧
  (∀ s : State, ∃ t,
    frameCheck [0xA0#8, 0x00#8, 0x10#8, 0x02#8, 0x11#8, 0x22#8, 0x70#8, 0xF2#8, 0xA0#8] s =
      some (t, .errCrc) ∧ t.crc = 0xA76A#16) ∧
  (∀ s : State, ∃ t,
    frameCheck [0xA0#8, 0x00#8, 0x10#8, 0x02#8, 0x11#8, 0x22#8, 0x33#8, 0xD7#8, 0xF5#8] s =
      some (t, .errLen)) ∧
  (∀ s : State, ∃ t, frameCheck [0x00#8, 0x00#8, 0x00#8, 0x00#8, 0x03#8, 0x21#8] s = some (t, .ok))

/-- R127, R204, U15: with the type-code check and the kind's own checks standing at the two places R127
marks (they are parameters of the model, log 13), the order is guard, checksum, type code, declared
length, kind, and the first failing check is the result. -/
def Obligations.DecoderChecksStandInSourceOrder : Prop :=
  (∀ (ty kind : List Byte → Check) (fb : List Byte) (s : State), fb.length < 6 →
    frameCheckWith ty kind fb s = some (s, .errLen)) ∧
  (∀ (ty kind : List Byte → Check) (b0 b1 b2 len : Byte) (mid : List Byte) (hi lo : Byte) (s : State),
    ∃ t, frameCheckWith ty kind (b0 :: b1 :: b2 :: len :: (mid ++ [hi, lo])) s =
        some (t,
          if (crc16 (b0 :: b1 :: b2 :: len :: mid)).toNat ≠ hi.toNat * 256 + lo.toNat then .errCrc
          else if ty (b0 :: b1 :: b2 :: len :: (mid ++ [hi, lo])) ≠ .ok then
            ty (b0 :: b1 :: b2 :: len :: (mid ++ [hi, lo]))
          else if mid.length ≠ len.toNat then .errLen
          else kind (b0 :: b1 :: b2 :: len :: (mid ++ [hi, lo]))) ∧
      t.crc = crc16 (b0 :: b1 :: b2 :: len :: mid) ∧ SameFramer s t)

/-- U17 (the model's choice of treatment, log 12): a buffer or a range outside the operand range of a
pseudo-operation has no result; FRAME.CHECK has one for every buffer. -/
def Obligations.OperandsOutOfRangeHaveNoResult : Prop :=
  (∀ (fb : List Byte) (i e : Nat) (s : State), (e < i ∨ fb.length < e) → crcCompute fb i e s = none) ∧
  (∀ (fb : List Byte) (s : State), fb.length < 2 → frameSeal fb s = none ∧ frameVerify fb s = none) ∧
  (∀ fb : List Byte, fb.length < 4 ↔ frameLenchk fb = none) ∧
  (∀ (fb : List Byte) (s : State), (frameCheck fb s).isSome = true)

/-- R128: a sealed buffer verifies, whatever its body; a sealed buffer whose length is the declared one
passes FRAME.CHECK; inverting any one bit of a sealed buffer makes FRAME.VERIFY fail. -/
def Obligations.SealedFrameVerifiesAndFlipsAreCaught : Prop :=
  (∀ (fb fb' : List Byte) (s t u : State), 2 ≤ fb.length → frameSeal fb s = some (t, fb') →
    ∃ v, frameVerify fb' u = some (v, .ok)) ∧
  (∀ (ty len : Byte) (fb fb' : List Byte) (s t u : State), fb.length = 6 + len.toNat →
    fb.take 4 = [0xA0#8, 0x00#8, ty, len] → frameSeal fb s = some (t, fb') →
    ∃ v, frameCheck fb' u = some (v, .ok)) ∧
  (∀ (fb fb' : List Byte) (s t u : State) (i k : Nat), 2 ≤ fb.length →
    frameSeal fb s = some (t, fb') → i < fb.length → k < 8 →
    ∃ v, frameVerify (flipAt fb' i k) u = some (v, .errCrc))

/-! ### The framer's input, output and status -/

/-- R140, R141: FRM.RXBYTE queues the byte while the backlog is not full; on a full backlog it drops the
byte and sets `RXOVF`; `RSP_OK` in both cases. -/
def Obligations.RxbyteQueuesOrMarksOverflow : Prop :=
  (∀ b : Byte, encode (.frmRxbyte b) = 0x400#12 ||| b.setWidth 12) ∧
  (∀ (b : Byte) (s : State), s.raw.length < s.params.rawCap →
    exec (.frmRxbyte b) s = .next ({ s with raw := s.raw ++ [b] }.respond { code := .ok })) ∧
  (∀ (b : Byte) (s : State), s.params.rawCap ≤ s.raw.length →
    exec (.frmRxbyte b) s = .next ({ s with rxovf := true }.respond { code := .ok }))

/-- R141, R232: of a run of received bytes the backlog keeps what fits of the front, in order, and
`RXOVF` is set exactly when something did not fit (or it was set before). -/
def Obligations.BacklogKeepsReceivedPrefix : Prop :=
  ∀ (bs : List Byte) (s : State), s.raw.length ≤ s.params.rawCap →
    ∃ t, runOps (rxBytes bs) s = .next t ∧
      t.raw = (s.raw ++ bs).take s.params.rawCap ∧
      t.rxovf = (s.rxovf || decide (s.params.rawCap < s.raw.length + bs.length)) ∧
      t.crc = s.crc ∧ t.acc = s.acc ∧ t.cfq = s.cfq ∧ t.params = s.params

/-- R142: FRM.POP returns the head and removes it, or answers `RSP_EMPTY` and changes nothing; frames come
out whole, in the order of the queue. -/
def Obligations.PopTakesFramesInOrder : Prop :=
  encode .frmPop = 0x600#12 ∧
  (∀ s : State, s.cfq = [] → exec .frmPop s = .next (s.respond { code := .empty })) ∧
  (∀ (s : State) (f : List Byte) (rest : List (List Byte)), s.cfq = f :: rest →
    exec .frmPop s = .next ({ s with cfq := rest }.respond { code := .ok, frame := some f })) ∧
  (∀ (s : State) (k : Nat) (f : List Byte), s.cfq[k]? = some f →
    ∃ t, runOps (List.replicate (k + 1) .frmPop) s = .next t ∧
      t.answer = some { code := .ok, frame := some f } ∧ t.cfq = s.cfq.drop (k + 1)) ∧
  (∀ s : State, ∃ t, runOps (List.replicate (s.cfq.length + 1) .frmPop) s = .next t ∧
    t.answer = some { code := .empty } ∧ t.cfq = [])

/-- R144, R28: FRM.STATUS reports and changes no state; the tri-state is the first of pending, busy, idle
whose condition holds; its codes. -/
def Obligations.StatusReportsFirstThatHolds : Prop :=
  (∀ rx cs : Bool, encode (.frmStatus rx cs) =
    0x700#12 ||| ((BitVec.ofBool cs).setWidth 12 <<< 1) ||| (BitVec.ofBool rx).setWidth 12) ∧
  (∀ (rx cs : Bool) (s : State), s.cfq ≠ [] →
    exec (.frmStatus rx cs) s = .next (s.respond
      { code := .ok, sniff := some .framePending, rxovf := some s.rxovf, count := some s.cfq.length })) ∧
  (∀ (rx cs : Bool) (s : State), s.cfq = [] →
    (s.raw ≠ [] ∨ s.acc ≠ [] ∨ rx = true ∨ cs = true) →
    exec (.frmStatus rx cs) s = .next (s.respond
      { code := .ok, sniff := some .busy, rxovf := some s.rxovf, count := some 0 })) ∧
  (∀ s : State, s.cfq = [] → s.raw = [] → s.acc = [] →
    exec (.frmStatus false false) s = .next (s.respond
      { code := .ok, sniff := some .idle, rxovf := some s.rxovf, count := some 0 })) ∧
  Sniff.idle.num = 0#2 ∧ Sniff.busy.num = 1#2 ∧ Sniff.framePending.num = 2#2 ∧
  (∀ x : Sniff, x.num ≠ 3#2)

/-- R26, R141: `RXOVF` is set by an FRM.RXBYTE that finds the backlog full and by nothing else; only
BLK.RESET clears it; FRM.TICK and FRM.STATUS report it; it is 0 after reset. -/
def Obligations.RxovfIsStickyUntilReset : Prop :=
  (∀ (i : Instr) (s t : State), exec i s = .next t → s.rxovf = true → i ≠ .blkReset →
    t.rxovf = true) ∧
  (∀ (i : Instr) (s t : State), exec i s = .next t → s.rxovf = false → t.rxovf = true →
    ∃ b, i = .frmRxbyte b ∧ s.params.rawCap ≤ s.raw.length) ∧
  (∀ (b : Byte) (s t : State), exec (.frmRxbyte b) s = .next t → s.params.rawCap ≤ s.raw.length →
    t.rxovf = true) ∧
  (∀ s t : State, exec .blkReset s = .next t → t.rxovf = false) ∧
  (∀ (rx cs : Bool) (s t : State),
    (exec (.frmTick rx cs) s = .next t ∨ exec (.frmStatus rx cs) s = .next t) →
    t.rxovf = s.rxovf ∧ t.answer.bind (·.rxovf) = some s.rxovf) ∧
  State.reset.rxovf = false

/-! ### Who writes what, and what is answered -/

/-- R20 (the column "written by"), R21, R28: each element is changed only by the operations the inventory
names; the parameters, the agents' pending operations and the events by none; the response goes to the
issuer alone. -/
def Obligations.ElementsChangeOnlyByTheirWriters : Prop :=
  ∀ (i : Instr) (s t : State), exec i s = .next t →
    SameAround s.issuer s t ∧
    (t.crc ≠ s.crc → i = .crcInit ∨ (∃ b, i = .crcUpdate b) ∨ i = .blkReset) ∧
    (t.raw ≠ s.raw → (∃ b, i = .frmRxbyte b) ∨ (∃ rx cs, i = .frmTick rx cs) ∨ i = .blkReset) ∧
    (t.acc ≠ s.acc → (∃ rx cs, i = .frmTick rx cs) ∨ i = .blkReset) ∧
    (t.cfq ≠ s.cfq → (∃ rx cs, i = .frmTick rx cs) ∨ i = .frmPop ∨ i = .blkReset) ∧
    (t.rxovf ≠ s.rxovf → (∃ b, i = .frmRxbyte b) ∨ i = .blkReset)

/-- R85, R28: every operation answers one record; which fields are filled by which operations, and with
what, the status read in the state the operation leaves; a field an operation does not fill is absent. -/
def Obligations.ResponseFieldsAreTheOperationsOwn : Prop :=
  ∀ (i : Instr) (s t : State), exec i s = .next t → ∃ r, t.answer = some r ∧
    (r.code = .empty ↔ i = .frmPop ∧ s.cfq = []) ∧ r.code ≠ .errOp ∧
    r.crc = (if i = .crcRead then some s.crc else none) ∧
    (r.sniff.isSome = true ↔ ∃ rx cs, i = .frmTick rx cs ∨ i = .frmStatus rx cs) ∧
    (r.rxovf.isSome = true ↔ ∃ rx cs, i = .frmTick rx cs ∨ i = .frmStatus rx cs) ∧
    (r.count.isSome = true ↔ ∃ rx cs, i = .frmTick rx cs ∨ i = .frmStatus rx cs) ∧
    (∀ (rx cs : Bool) (x : Sniff), (i = .frmTick rx cs ∨ i = .frmStatus rx cs) → r.sniff = some x →
      x = (if t.cfq ≠ [] then .framePending
        else if t.raw ≠ [] ∨ t.acc ≠ [] ∨ rx = true ∨ cs = true then .busy else .idle)) ∧
    (∀ x, r.rxovf = some x → x = t.rxovf) ∧ (∀ n, r.count = some n → n = t.cfq.length) ∧
    (r.frame.isSome = true ↔ i = .frmPop ∧ r.code = .ok) ∧
    (∀ f, r.frame = some f → s.cfq.head? = some f)

/-- R60: a checksum operation and a framer operation commute: neither's response nor the final state
depends on which comes first. -/
def Obligations.CrcAndFramerOperationsCommute : Prop :=
  ∀ (i j : Instr) (s t1 t2 u1 u2 : State), i.isCrc = true → j.isFramer = true →
    exec i s = .next t1 → exec j t1 = .next t2 → exec j s = .next u1 → exec i u1 = .next u2 →
    SameBlock t2 u2 ∧ t1.answer = u2.answer ∧ t2.answer = u1.answer

/-- R56: CRC.READ and FRM.STATUS have no side effect and are idempotent, FRM.TICK twice in a row leaves
what one leaves, and FRM.POP is a destructive read. -/
def Obligations.ReadsAreIdempotentAndPopIsNot : Prop :=
  (∀ (i : Instr) (s t : State), (i = .crcRead ∨ ∃ rx cs, i = .frmStatus rx cs) →
    exec i s = .next t → SameBlock s t ∧ exec i t = .next t) ∧
  (∀ (rx cs : Bool) (s t : State), exec (.frmTick rx cs) s = .next t →
    exec (.frmTick rx cs) t = .next t) ∧
  (∀ (f : List Byte) (rest : List (List Byte)) (s t u : State), s.cfq = f :: rest →
    exec .frmPop s = .next t → exec .frmPop t = .next u →
    t.answer = some { code := .ok, frame := some f } ∧ t.cfq = rest ∧
    u.answer = (match rest with
      | [] => some { code := .empty }
      | g :: _ => some { code := .ok, frame := some g }))

/-! ### The tick -/

/-- R160 (State read, State written, the response), R163: FRM.TICK answers in every state; it empties the
backlog and the accumulator, queues its candidates, the newest `FQ_CAP` frames staying, and writes
nothing else; the status answered is that of the state it leaves. -/
def Obligations.TickResult : Prop :=
  (∀ rx cs : Bool, encode (.frmTick rx cs) =
    0x500#12 ||| ((BitVec.ofBool cs).setWidth 12 <<< 1) ||| (BitVec.ofBool rx).setWidth 12) ∧
  (∀ (rx cs : Bool) (s : State), ∃ t, exec (.frmTick rx cs) s = .next t ∧
    t.raw = [] ∧ t.acc = [] ∧ t.crc = s.crc ∧ t.rxovf = s.rxovf ∧ SameAround s.issuer s t ∧
    t.cfq = (if s.tickCandidates = [] then s.cfq
      else newest s.params.fqCap (s.cfq ++ s.tickCandidates)) ∧
    t.answer = some
      { code := .ok
        sniff := some (if t.cfq ≠ [] then .framePending
          else if rx = true ∨ cs = true then .busy else .idle)
        rxovf := some s.rxovf
        count := some t.cfq.length })

/-- R161 to R167: a pass does exactly one action, the first of steps 2 to 5 whose condition holds, the
conditions and the actions written out. -/
def Obligations.PassDoesFirstApplicableStep : Prop :=
  ∀ (s : State) (b : Byte) (rest : List Byte), s.raw = b :: rest →
    (∀ (e : Nat) (more : List Byte), s.raw = 0xA0#8 :: 0x00#8 :: more → s.acc ≠ [] →
      explen s.acc = some e → s.acc.length < e → s.acc.length ≤ s.params.frameMaxLen →
      s.tickPass = { s with raw := more, acc := s.acc ++ [0xA0#8, 0x00#8] }) ∧
    (∀ more : List Byte, s.raw = 0xA0#8 :: 0x00#8 :: more → s.acc ≠ [] →
      ¬ ((∃ e, explen s.acc = some e ∧ s.acc.length < e) ∧ s.acc.length ≤ s.params.frameMaxLen) →
      s.tickPass = { s with cfq := newest s.params.fqCap (s.cfq ++ [s.acc]), acc := [] }) ∧
    (∀ e p : Nat, ¬ ((∃ more, s.raw = 0xA0#8 :: 0x00#8 :: more) ∧ s.acc ≠ []) →
      explen s.acc = some e → e < s.acc.length → 1 ≤ p → s.acc[p]? = some 0xA0#8 →
      s.acc[p + 1]? = some 0x00#8 →
      (∀ q, 1 ≤ q → q < p → ¬ (s.acc[q]? = some 0xA0#8 ∧ s.acc[q + 1]? = some 0x00#8)) →
      s.tickPass =
        { s with cfq := newest s.params.fqCap (s.cfq ++ [s.acc.take p]), acc := s.acc.drop p }) ∧
    (¬ ((∃ more, s.raw = 0xA0#8 :: 0x00#8 :: more) ∧ s.acc ≠ []) →
      ¬ ((∃ e, explen s.acc = some e ∧ e < s.acc.length) ∧
        ∃ p, 1 ≤ p ∧ s.acc[p]? = some 0xA0#8 ∧ s.acc[p + 1]? = some 0x00#8) →
      s.tickPass = { s with raw := rest, acc := s.acc ++ [b] })

/-- R171: every pass takes bytes from `RAW` or shortens `ACC`, so the loop ends; a tick that starts with
`m` bytes in `RAW` and an empty accumulator makes at most `2m` passes and is then flushed. -/
def Obligations.TickLoopEndsWithinTwiceTheBacklog : Prop :=
  (∀ s : State, s.raw ≠ [] →
    s.tickPass.raw.length < s.raw.length ∨
    (s.tickPass.raw = s.raw ∧ s.tickPass.acc.length < s.acc.length)) ∧
  (∀ s : State, ∃ k, (∀ j, j < k → (State.passes j s).raw ≠ []) ∧ (State.passes k s).raw = [] ∧
    s.tick = (State.passes k s).tickFlush ∧ (s.acc = [] → k ≤ 2 * s.raw.length))

/-- R163: pushing a sequence of frames leaves the newest `FQ_CAP` of the old contents followed by the
frames, in order; nothing else changes. -/
def Obligations.PushKeepsNewestFrames : Prop :=
  (∀ (s : State) (f : List Byte),
    (s.pushFrame f).cfq <:+ s.cfq ++ [f] ∧
    (s.pushFrame f).cfq.length = min (s.cfq.length + 1) s.params.fqCap ∧
    s.pushFrame f = { s with cfq := (s.pushFrame f).cfq }) ∧
  (∀ (s : State) (fs : List (List Byte)), fs ≠ [] →
    (fs.foldl State.pushFrame s).cfq <:+ s.cfq ++ fs ∧
    (fs.foldl State.pushFrame s).cfq.length = min (s.cfq.length + fs.length) s.params.fqCap)

/-- R169: a tick with an empty backlog changes no state and reports the status; two ticks in a row are the
same as one. -/
def Obligations.EmptyTickChangesNothing : Prop :=
  (∀ (rx cs : Bool) (s : State), s.raw = [] → s.acc = [] →
    exec (.frmTick rx cs) s = .next (s.respond (s.statusResponse rx cs))) ∧
  (∀ (rx cs : Bool) (s t : State), exec (.frmTick rx cs) s = .next t →
    exec (.frmTick rx cs) t = .next t)

/-- R170, R52: the candidates of a tick, joined in order, are exactly the bytes that were in `RAW`; none is
empty; there is none exactly when there was no byte; and what the tick leaves queued are the newest
frames of the old queue followed by the candidates. -/
def Obligations.TickConservesBytes : Prop :=
  ∀ s : State, s.acc = [] → s.cfq.length ≤ s.params.fqCap →
    s.tickCandidates.flatten = s.raw ∧
    (∀ c ∈ s.tickCandidates, c ≠ []) ∧
    (s.tickCandidates = [] ↔ s.raw = []) ∧
    ∀ (rx cs : Bool), ∃ t, exec (.frmTick rx cs) s = .next t ∧
      t.cfq = newest s.params.fqCap (s.cfq ++ s.tickCandidates)

/-- R172: within a tick that starts with an empty accumulator, a sentinel pair at an index from 1 up comes
into the accumulator by step 2 alone: an append adds none, a merge adds the one it appends, a split
keeps those of the remainder, a close leaves none. -/
def Obligations.EmbeddedSentinelsComeFromMerge : Prop :=
  ∀ (s : State) (k p : Nat), s.acc = [] → (∀ j, j ≤ k → (State.passes j s).raw ≠ []) → 1 ≤ p →
    pairAt (State.passes k s).tickPass.acc p = true →
    match (State.passes k s).tickStep with
    | .merge => pairAt (State.passes k s).acc p = true ∨ p = (State.passes k s).acc.length
    | .close => False
    | .split q => pairAt (State.passes k s).acc (p + q) = true
    | .append => pairAt (State.passes k s).acc p = true

/-- R173: a tick over frames one after the other, each well formed, no longer than `FRAME_MAX_LEN` and no
header look-alike, hands over exactly those frames, all but the last by step 3, the last by step 6,
and never splits; if there are more than `FQ_CAP` the last ones remain queued. -/
def Obligations.CleanStreamIsCutIntoItsFrames : Prop :=
  ∀ (s : State) (fs : List (List Byte)) (last : List Byte), s.acc = [] →
    (∀ f ∈ fs ++ [last],
      f[0]? = some 0xA0#8 ∧ f[1]? = some 0x00#8 ∧
      (∃ len : Byte, f[3]? = some len ∧ f.length = 6 + len.toNat) ∧
      f.length ≤ s.params.frameMaxLen ∧
      ¬ (f[2]? = some 0xA0#8 ∧ f[3]? = some 0x00#8) ∧
      ¬ (f[3]? = some 0xA0#8 ∧ f[4]? = some 0x00#8)) →
    s.raw = (fs ++ [last]).flatten →
    s.tickCuts = fs.map (fun f => (.close, f)) ∧ s.flushed = [last] ∧
    s.tickCandidates = fs ++ [last] ∧
    (∀ p, .split p ∉ s.tickTrace) ∧
    ∀ (rx cs : Bool), ∃ t, exec (.frmTick rx cs) s = .next t ∧
      t.cfq = newest s.params.fqCap (s.cfq ++ (fs ++ [last]))

/-- R174, cases (a), (b), (c): a frame cut short after `m` bytes and followed at once by a second frame,
no pair inside either: the prefix and the second frame come out apart when `m < 4` or when both
together are at least two bytes longer than the first frame declares, and joined otherwise. -/
def Obligations.TruncatedFrameThenFrame : Prop :=
  ∀ (s : State) (f1 f2 : List Byte) (m : Nat), s.acc = [] →
    cleanFrame s.params f1 = true → cleanFrame s.params f2 = true →
    1 ≤ m → m < f1.length →
    noInnerPair (f1.take m) = true → noInnerPair f2 = true →
    s.raw = f1.take m ++ f2 →
    (m < 4 → s.tickCandidates = [f1.take m, f2]) ∧
    (4 ≤ m → f1.length + 2 ≤ m + f2.length → s.tickCandidates = [f1.take m, f2]) ∧
    (4 ≤ m → m + f2.length ≤ f1.length + 1 → s.tickCandidates = [f1.take m ++ f2])

/-- R175: if step 3 closed a candidate of a tick, the two ticks over the bytes up to its end and over the
rest hand over the same candidates in the same order, and leave the same queue. -/
def Obligations.TickBoundaryAtCloseIsHarmless : Prop :=
  ∀ (s : State) (before after : List (TickStep × List Byte)) (c : List Byte) (n : Nat), s.acc = [] →
    s.tickCuts = before ++ (.close, c) :: after →
    n = (before.map (·.2)).flatten.length + c.length →
    State.tickCandidates { s with raw := s.raw.take n } ++
        State.tickCandidates { s with raw := s.raw.drop n } = s.tickCandidates ∧
    State.tick { State.tick { s with raw := s.raw.take n } with raw := s.raw.drop n } = s.tick

/-- R176, R231: a tick that falls inside a frame loses it, whatever the frame: none of the candidates of
the two ticks is the frame. So the candidates depend on where the ticks fall (90_conflicts.md C2). -/
def Obligations.TickInsideFrameLosesIt : Prop :=
  (∀ (s : State) (f : List Byte) (m : Nat), s.acc = [] → 1 ≤ m → m < f.length →
    f ∉ State.tickCandidates { s with raw := f.take m } ++
      State.tickCandidates { s with raw := f.drop m }) ∧
  ¬ ∀ (s : State) (r1 r2 : List Byte), s.acc = [] →
    State.tickCandidates { s with raw := r1 } ++ State.tickCandidates { s with raw := r2 } =
      State.tickCandidates { s with raw := r1 ++ r2 }

/-- R234: the two kinds of header look-alike are always mis-cut, whatever follows. -/
def Obligations.HeaderLookAlikesAreMiscut : Prop :=
  (∀ (s : State) (x : List Byte), s.acc = [] → s.raw = 0xA0#8 :: 0x00#8 :: 0xA0#8 :: 0x00#8 :: x →
    s.tickCandidates.head? = some [0xA0#8, 0x00#8]) ∧
  (∀ (s : State) (ty : Byte) (x : List Byte), s.acc = [] →
    s.raw = 0xA0#8 :: 0x00#8 :: ty :: 0xA0#8 :: 0x00#8 :: x →
    s.tickCandidates.head? = some [0xA0#8, 0x00#8, ty])

/-- R235: whatever the backlog, no candidate of a tick carries the sentinel pair at an index greater than
`FRAME_MAX_LEN`; so a frame that carries it there is cut, alone in the backlog or inside a stream. -/
def Obligations.PairBeyondMaxLenCutsFrame : Prop :=
  ∀ (s : State) (f : List Byte) (p : Nat), s.acc = [] →
    s.params.frameMaxLen < p → pairAt f p = true → f ∉ s.tickCandidates

/-! ### Invariants -/

/-- R29: the invariants I1 to I4 hold after reset, of an instance with any legal parameters (R8) and of the
state the machine starts in. -/
def Obligations.InvHoldsAtReset : Prop :=
  (∀ p : Params, p.wf = true → (State.resetWith p).Inv) ∧ State.reset.Inv

/-- R29: every step keeps I1 to I4, whatever operation, reserved word or power-on it carries out; the
parameters never change; and I5: `RXOVF` once 1 stays 1 but for BLK.RESET or power-on. -/
def Obligations.StepKeepsInvariants : Prop :=
  ∀ s t : State, s.Inv → step s = .next t →
    t.Inv ∧ t.params = s.params ∧
    (s.rxovf = true → t.rxovf = false →
      (∃ rest, s.events = .powerOn :: rest) ∨
      ∃ (a : Agent) (rest : List Event) (w : CmdWord) (ws : List CmdWord),
        s.events = .op a :: rest ∧ (s.port a).pending = w :: ws ∧ decode w = .ok .blkReset)

/-! ### From the line to the host -/

/-- R140, R160, R142, R173 (a run with nothing between its operations, log 16): when clean frames arrive
that fit the backlog and the queue, and the host ticks once, no byte is lost and its pops return the
frames whole, in the order they arrived. -/
def Obligations.CleanFramesReachTheHostInOrder : Prop :=
  ∀ (s : State) (fs : List (List Byte)) (k : Nat) (f : List Byte), s.Inv → s.raw = [] → s.cfq = [] →
    (∀ g ∈ fs, cleanFrame s.params g = true) → fs.flatten.length ≤ s.params.rawCap →
    fs.length ≤ s.params.fqCap → fs[k]? = some f →
    ∃ t, runOps (rxBytes fs.flatten ++ .frmTick false false :: List.replicate (k + 1) .frmPop) s
        = .next t ∧
      t.answer = some { code := .ok, frame := some f } ∧ t.rxovf = s.rxovf ∧
      t.cfq = fs.drop (k + 1)
end

