-- ==== Sys2Proof/Laws/State.lean ====
section
/-! SUPPORT. One lemma per field per update of State, so that no later proof unfolds a record update,
and the small lemmas of the accessors. -/

namespace Sys2Proof.Machine

/-! ### setPort, port, respond -/

@[simp] theorem State.setPort_crc (s : State) (a : Agent) (p : Port) : (s.setPort a p).crc = s.crc := rfl
@[simp] theorem State.setPort_raw (s : State) (a : Agent) (p : Port) : (s.setPort a p).raw = s.raw := rfl
@[simp] theorem State.setPort_acc (s : State) (a : Agent) (p : Port) : (s.setPort a p).acc = s.acc := rfl
@[simp] theorem State.setPort_cfq (s : State) (a : Agent) (p : Port) : (s.setPort a p).cfq = s.cfq := rfl
@[simp] theorem State.setPort_rxovf (s : State) (a : Agent) (p : Port) :
    (s.setPort a p).rxovf = s.rxovf := rfl
@[simp] theorem State.setPort_params (s : State) (a : Agent) (p : Port) :
    (s.setPort a p).params = s.params := rfl
@[simp] theorem State.setPort_events (s : State) (a : Agent) (p : Port) :
    (s.setPort a p).events = s.events := rfl
@[simp] theorem State.setPort_issuer (s : State) (a : Agent) (p : Port) :
    (s.setPort a p).issuer = s.issuer := rfl
@[simp] theorem State.setPort_host_host (s : State) (p : Port) : (s.setPort .host p).host = p := rfl
@[simp] theorem State.setPort_host_transport (s : State) (p : Port) :
    (s.setPort .host p).transport = s.transport := rfl
@[simp] theorem State.setPort_transport_host (s : State) (p : Port) :
    (s.setPort .transport p).host = s.host := rfl
@[simp] theorem State.setPort_transport_transport (s : State) (p : Port) :
    (s.setPort .transport p).transport = p := rfl

@[simp] theorem State.port_host (s : State) : s.port .host = s.host := rfl
@[simp] theorem State.port_transport (s : State) : s.port .transport = s.transport := rfl

@[simp] theorem State.port_setPort_same (s : State) (a : Agent) (p : Port) :
    (s.setPort a p).port a = p := by cases a <;> rfl

theorem State.port_setPort_of_ne (s : State) {a b : Agent} (p : Port) (h : b ≠ a) :
    (s.setPort a p).port b = s.port b := by
  cases a <;> cases b <;> first | rfl | exact absurd rfl h

@[simp] theorem State.respond_crc (s : State) (r : Response) : (s.respond r).crc = s.crc := rfl
@[simp] theorem State.respond_raw (s : State) (r : Response) : (s.respond r).raw = s.raw := rfl
@[simp] theorem State.respond_acc (s : State) (r : Response) : (s.respond r).acc = s.acc := rfl
@[simp] theorem State.respond_cfq (s : State) (r : Response) : (s.respond r).cfq = s.cfq := rfl
@[simp] theorem State.respond_rxovf (s : State) (r : Response) : (s.respond r).rxovf = s.rxovf := rfl
@[simp] theorem State.respond_params (s : State) (r : Response) : (s.respond r).params = s.params := rfl
@[simp] theorem State.respond_events (s : State) (r : Response) : (s.respond r).events = s.events := rfl
@[simp] theorem State.respond_issuer (s : State) (r : Response) : (s.respond r).issuer = s.issuer := rfl

@[simp] theorem State.respond_host_pending (s : State) (r : Response) :
    (s.respond r).host.pending = s.host.pending := by
  cases h : s.issuer <;> simp [State.respond, h]

@[simp] theorem State.respond_transport_pending (s : State) (r : Response) :
    (s.respond r).transport.pending = s.transport.pending := by
  cases h : s.issuer <;> simp [State.respond, h]

/-- The response goes to the issuer. -/
@[simp] theorem State.answer_respond (s : State) (r : Response) : (s.respond r).answer = some r := by
  simp [State.answer, State.respond]

/-- The response goes to nobody but the issuer. -/
theorem State.port_respond_of_ne (s : State) (r : Response) {b : Agent} (h : b ≠ s.issuer) :
    (s.respond r).port b = s.port b :=
  State.port_setPort_of_ne s _ h

/-- What is not the block's own state is left as it was, but for the response. -/
theorem State.respond_sameAround (s : State) (r : Response) : SameAround s.issuer s (s.respond r) := by
  refine ⟨rfl, rfl, rfl, by simp, by simp, ?_, ?_⟩ <;> intro h
  · exact (congrArg Port.resp (State.port_respond_of_ne s r (b := .host) (Ne.symm h))).symm
  · exact (congrArg Port.resp (State.port_respond_of_ne s r (b := .transport) (Ne.symm h))).symm

/-- Two responses in a row leave the second. -/
@[simp] theorem State.respond_respond (s : State) (r q : Response) :
    (s.respond r).respond q = s.respond q := by
  cases h : s.issuer <;> simp [State.respond, State.setPort, State.port, h]

/-- A response replaces the one the issuer held. -/
theorem State.respond_setPort {s : State} {a : Agent} (h : s.issuer = a) (p : Port) (r : Response) :
    (s.setPort a p).respond r = s.setPort a { p with resp := some r } := by
  subst h
  unfold State.respond
  rw [State.setPort_issuer, State.port_setPort_same]
  cases s.issuer <;> rfl

/-! ### pushFrame -/

@[simp] theorem State.pushFrame_crc (s : State) (f : List Byte) : (s.pushFrame f).crc = s.crc := rfl
@[simp] theorem State.pushFrame_raw (s : State) (f : List Byte) : (s.pushFrame f).raw = s.raw := rfl
@[simp] theorem State.pushFrame_acc (s : State) (f : List Byte) : (s.pushFrame f).acc = s.acc := rfl
@[simp] theorem State.pushFrame_rxovf (s : State) (f : List Byte) : (s.pushFrame f).rxovf = s.rxovf := rfl
@[simp] theorem State.pushFrame_params (s : State) (f : List Byte) :
    (s.pushFrame f).params = s.params := rfl
@[simp] theorem State.pushFrame_host (s : State) (f : List Byte) : (s.pushFrame f).host = s.host := rfl
@[simp] theorem State.pushFrame_transport (s : State) (f : List Byte) :
    (s.pushFrame f).transport = s.transport := rfl
@[simp] theorem State.pushFrame_events (s : State) (f : List Byte) :
    (s.pushFrame f).events = s.events := rfl
@[simp] theorem State.pushFrame_issuer (s : State) (f : List Byte) :
    (s.pushFrame f).issuer = s.issuer := rfl

theorem State.pushFrame_cfq (s : State) (f : List Byte) :
    (s.pushFrame f).cfq = newest s.params.fqCap (s.cfq ++ [f]) := rfl

/-! ### pushRaw, setRxovf -/

@[simp] theorem State.pushRaw_raw (s : State) (b : Byte) : (s.pushRaw b).raw = s.raw ++ [b] := rfl
@[simp] theorem State.pushRaw_crc (s : State) (b : Byte) : (s.pushRaw b).crc = s.crc := rfl
@[simp] theorem State.pushRaw_acc (s : State) (b : Byte) : (s.pushRaw b).acc = s.acc := rfl
@[simp] theorem State.pushRaw_cfq (s : State) (b : Byte) : (s.pushRaw b).cfq = s.cfq := rfl
@[simp] theorem State.pushRaw_rxovf (s : State) (b : Byte) : (s.pushRaw b).rxovf = s.rxovf := rfl
@[simp] theorem State.pushRaw_params (s : State) (b : Byte) : (s.pushRaw b).params = s.params := rfl
@[simp] theorem State.pushRaw_host (s : State) (b : Byte) : (s.pushRaw b).host = s.host := rfl
@[simp] theorem State.pushRaw_transport (s : State) (b : Byte) :
    (s.pushRaw b).transport = s.transport := rfl
@[simp] theorem State.pushRaw_events (s : State) (b : Byte) : (s.pushRaw b).events = s.events := rfl
@[simp] theorem State.pushRaw_issuer (s : State) (b : Byte) : (s.pushRaw b).issuer = s.issuer := rfl

@[simp] theorem State.setRxovf_rxovf (s : State) : s.setRxovf.rxovf = true := rfl
@[simp] theorem State.setRxovf_crc (s : State) : s.setRxovf.crc = s.crc := rfl
@[simp] theorem State.setRxovf_raw (s : State) : s.setRxovf.raw = s.raw := rfl
@[simp] theorem State.setRxovf_acc (s : State) : s.setRxovf.acc = s.acc := rfl
@[simp] theorem State.setRxovf_cfq (s : State) : s.setRxovf.cfq = s.cfq := rfl
@[simp] theorem State.setRxovf_params (s : State) : s.setRxovf.params = s.params := rfl
@[simp] theorem State.setRxovf_host (s : State) : s.setRxovf.host = s.host := rfl
@[simp] theorem State.setRxovf_transport (s : State) : s.setRxovf.transport = s.transport := rfl
@[simp] theorem State.setRxovf_events (s : State) : s.setRxovf.events = s.events := rfl
@[simp] theorem State.setRxovf_issuer (s : State) : s.setRxovf.issuer = s.issuer := rfl

/-! ### resetBlock -/

@[simp] theorem State.resetBlock_crc (s : State) : s.resetBlock.crc = Config.crcInit := rfl
@[simp] theorem State.resetBlock_raw (s : State) : s.resetBlock.raw = [] := rfl
@[simp] theorem State.resetBlock_acc (s : State) : s.resetBlock.acc = [] := rfl
@[simp] theorem State.resetBlock_cfq (s : State) : s.resetBlock.cfq = [] := rfl
@[simp] theorem State.resetBlock_rxovf (s : State) : s.resetBlock.rxovf = false := rfl
@[simp] theorem State.resetBlock_params (s : State) : s.resetBlock.params = s.params := rfl
@[simp] theorem State.resetBlock_host (s : State) : s.resetBlock.host = s.host := rfl
@[simp] theorem State.resetBlock_transport (s : State) : s.resetBlock.transport = s.transport := rfl
@[simp] theorem State.resetBlock_events (s : State) : s.resetBlock.events = s.events := rfl
@[simp] theorem State.resetBlock_issuer (s : State) : s.resetBlock.issuer = s.issuer := rfl

/-! ### The four actions of a pass, and the flush -/

@[simp] theorem State.tickMerge_raw (s : State) : s.tickMerge.raw = s.raw.drop 2 := rfl
@[simp] theorem State.tickMerge_acc (s : State) : s.tickMerge.acc = s.acc ++ s.raw.take 2 := rfl
@[simp] theorem State.tickMerge_cfq (s : State) : s.tickMerge.cfq = s.cfq := rfl
@[simp] theorem State.tickMerge_params (s : State) : s.tickMerge.params = s.params := rfl
@[simp] theorem State.tickClose_raw (s : State) : s.tickClose.raw = s.raw := rfl
@[simp] theorem State.tickClose_acc (s : State) : s.tickClose.acc = [] := rfl
@[simp] theorem State.tickClose_cfq (s : State) :
    s.tickClose.cfq = newest s.params.fqCap (s.cfq ++ [s.acc]) := rfl
@[simp] theorem State.tickClose_params (s : State) : s.tickClose.params = s.params := rfl
@[simp] theorem State.tickSplit_raw (s : State) (p : Nat) : (s.tickSplit p).raw = s.raw := rfl
@[simp] theorem State.tickSplit_acc (s : State) (p : Nat) : (s.tickSplit p).acc = s.acc.drop p := rfl
@[simp] theorem State.tickSplit_cfq (s : State) (p : Nat) :
    (s.tickSplit p).cfq = newest s.params.fqCap (s.cfq ++ [s.acc.take p]) := rfl
@[simp] theorem State.tickSplit_params (s : State) (p : Nat) : (s.tickSplit p).params = s.params := rfl
@[simp] theorem State.tickAppend_raw (s : State) : s.tickAppend.raw = s.raw.drop 1 := rfl
@[simp] theorem State.tickAppend_acc (s : State) : s.tickAppend.acc = s.acc ++ s.raw.take 1 := rfl
@[simp] theorem State.tickAppend_cfq (s : State) : s.tickAppend.cfq = s.cfq := rfl
@[simp] theorem State.tickAppend_params (s : State) : s.tickAppend.params = s.params := rfl

/-- The elements no pass touches, all at once: what a pass changes is `raw`, `acc` and `cfq` alone. -/
theorem State.tickPass_only (s : State) :
    s.tickPass = { s with raw := s.tickPass.raw, acc := s.tickPass.acc, cfq := s.tickPass.cfq } := by
  unfold State.tickPass
  split <;> rfl

theorem State.tickFlush_only (s : State) :
    s.tickFlush = { s with acc := s.tickFlush.acc, cfq := s.tickFlush.cfq } := by
  unfold State.tickFlush
  split <;> rfl

@[simp] theorem State.tickFlush_raw (s : State) : s.tickFlush.raw = s.raw := by
  rw [State.tickFlush_only]

end Sys2Proof.Machine
end

