-- ==== Sys2Proof/Laws/Ops.lean ====
section
/-! SUPPORT. For each shared operation, what it can do, said once: the sentinel pair and the embedded
sentinel, the pass of the tick (R161), taking the next command word (R59, R60), the fold of the
checksum, the run of a sequence of operations. -/

namespace Sys2Proof.Machine

/-! ### The sentinel -/

theorem pairAt_iff (a : List Byte) (p : Nat) :
    pairAt a p = true ↔ a[p]? = some Config.sentinel0 ∧ a[p + 1]? = some Config.sentinel1 := by
  simp [pairAt]

theorem pairAt_bound {a : List Byte} {p : Nat} (h : pairAt a p = true) : p + 2 ≤ a.length := by
  have h1 := ((pairAt_iff a p).1 h).2
  have := (List.getElem?_eq_some_iff.1 h1).1
  omega

theorem sentAtHead_iff (raw : List Byte) :
    sentAtHead raw = true ↔ ∃ rest, raw = Config.sentinel0 :: Config.sentinel1 :: rest := by
  rw [sentAtHead, pairAt_iff]
  match raw with
  | [] => simp
  | [b] => simp
  | b :: c :: rest =>
    constructor
    · rintro ⟨hb, hc⟩
      simp only [List.getElem?_cons_zero, List.getElem?_cons_succ, Option.some.injEq] at hb hc
      exact ⟨rest, by rw [hb, hc]⟩
    · rintro ⟨rest', h⟩
      simp only [List.cons.injEq] at h
      obtain ⟨rfl, rfl, _⟩ := h
      exact ⟨rfl, rfl⟩

/-- Everything `EmbeddedAt` can answer (R166): the least index from 1 up at which the pair stands. -/
theorem embeddedAt_eq_some {a : List Byte} {p : Nat} (h : embeddedAt a = some p) :
    1 ≤ p ∧ p + 2 ≤ a.length ∧ pairAt a p = true ∧ ∀ q, 1 ≤ q → q < p → pairAt a q = false := by
  rw [embeddedAt, List.find?_range_eq_some] at h
  obtain ⟨hp, _, hleast⟩ := h
  simp only [Bool.and_eq_true, decide_eq_true_eq] at hp
  refine ⟨hp.1, pairAt_bound hp.2, hp.2, fun q hq hqp => ?_⟩
  have := hleast q hqp
  simpa [hq] using this

theorem embeddedAt_eq_none {a : List Byte} (h : embeddedAt a = none) (q : Nat) (hq : 1 ≤ q) :
    pairAt a q = false := by
  by_contra hne
  have hpair : pairAt a q = true := by simpa using hne
  have hb := pairAt_bound hpair
  rw [embeddedAt, List.find?_eq_none] at h
  exact h q (List.mem_range.2 (by omega)) (by simp [hq, hpair])

/-- A sequence with the pair nowhere from index 1 up holds no embedded sentinel. -/
theorem embeddedAt_none_of {a : List Byte} (h : ∀ q, 1 ≤ q → pairAt a q = false) :
    embeddedAt a = none := by
  rw [embeddedAt, List.find?_eq_none]
  intro q _
  by_cases hq : 1 ≤ q
  · simp [h q hq]
  · simp [hq]

/-! ### A pass of the tick -/

/-- Everything a pass can do while `RAW` holds a byte (R161 to R167). -/
theorem State.tickPass_cases (s : State) (hraw : s.raw ≠ []) :
    (s.tickStep = .merge ∧ s.mergeCond = true ∧ s.tickPass = s.tickMerge ∧
      ∃ rest, s.raw = Config.sentinel0 :: Config.sentinel1 :: rest) ∨
    (s.tickStep = .close ∧ s.mergeCond = false ∧ s.acc ≠ [] ∧ s.tickPass = s.tickClose ∧
      ∃ rest, s.raw = Config.sentinel0 :: Config.sentinel1 :: rest) ∨
    (∃ p e, s.tickStep = .split p ∧ s.closeCond = false ∧ s.tickPass = s.tickSplit p ∧
      explen s.acc = some e ∧ e < s.acc.length ∧ embeddedAt s.acc = some p) ∨
    (∃ b rest, s.tickStep = .append ∧ s.closeCond = false ∧ s.splitPoint = none ∧
      s.tickPass = s.tickAppend ∧ s.raw = b :: rest) := by
  unfold State.tickPass
  unfold State.tickStep
  by_cases hm : s.mergeCond = true
  · refine .inl ?_
    have hs : sentAtHead s.raw = true := by
      simp only [State.mergeCond, Bool.and_eq_true] at hm
      exact hm.1.1.1
    simp only [hm, if_true]
    exact ⟨trivial, trivial, trivial, (sentAtHead_iff _).1 hs⟩
  · have hm' : s.mergeCond = false := by simpa using hm
    simp only [hm', Bool.false_eq_true, if_false]
    by_cases hc : s.closeCond = true
    · refine .inr (.inl ?_)
      simp only [hc, if_true]
      simp only [State.closeCond, Bool.and_eq_true, decide_eq_true_eq] at hc
      exact ⟨trivial, trivial, List.ne_nil_of_length_pos hc.2, trivial, (sentAtHead_iff _).1 hc.1⟩
    · have hc' : s.closeCond = false := by simpa using hc
      simp only [hc', Bool.false_eq_true, if_false]
      cases hp : s.splitPoint with
      | some p =>
        refine .inr (.inr (.inl ?_))
        simp only [State.splitPoint] at hp
        split at hp
        · rename_i hl
          cases he : explen s.acc with
          | none => simp [he, longerThan] at hl
          | some e =>
            rw [he] at hl
            exact ⟨p, e, rfl, trivial, rfl, rfl, by simpa [longerThan] using hl, hp⟩
        · cases hp
      | none =>
        refine .inr (.inr (.inr ?_))
        match hr : s.raw with
        | [] => exact absurd hr hraw
        | b :: rest => exact ⟨b, rest, rfl, trivial, rfl, rfl, rfl⟩

theorem State.tickLoop_nil (n : Nat) (s : State) (h : s.raw = []) : State.tickLoop n s = s := by
  cases n <;> simp [State.tickLoop, h]

theorem State.tickLoop_succ (n : Nat) (s : State) (h : s.raw ≠ []) :
    State.tickLoop (n + 1) s = State.tickLoop n s.tickPass := by
  simp [State.tickLoop, h]

/-- What the loop changes is `raw`, `acc` and `cfq` alone. -/
theorem State.tickLoop_only (n : Nat) (s : State) :
    State.tickLoop n s =
      { s with
        raw := (State.tickLoop n s).raw
        acc := (State.tickLoop n s).acc
        cfq := (State.tickLoop n s).cfq } := by
  induction n generalizing s with
  | zero => rfl
  | succ n ih =>
    simp only [State.tickLoop]
    split
    · rfl
    · rw [ih s.tickPass, State.tickPass_only s]

/-- What a tick changes is `raw`, `acc` and `cfq` alone (R160, "State written"). -/
theorem State.tick_only (s : State) :
    s.tick = { s with raw := s.tick.raw, acc := s.tick.acc, cfq := s.tick.cfq } := by
  unfold State.tick
  rw [State.tickFlush_only, State.tickLoop_only]

@[simp] theorem State.tick_crc (s : State) : s.tick.crc = s.crc := by rw [State.tick_only]
@[simp] theorem State.tick_rxovf (s : State) : s.tick.rxovf = s.rxovf := by rw [State.tick_only]
@[simp] theorem State.tick_params (s : State) : s.tick.params = s.params := by rw [State.tick_only]
@[simp] theorem State.tick_host (s : State) : s.tick.host = s.host := by rw [State.tick_only]
@[simp] theorem State.tick_transport (s : State) : s.tick.transport = s.transport := by
  rw [State.tick_only]
@[simp] theorem State.tick_events (s : State) : s.tick.events = s.events := by rw [State.tick_only]
@[simp] theorem State.tick_issuer (s : State) : s.tick.issuer = s.issuer := by rw [State.tick_only]

/-! ### The next command word -/

/-- Everything taking the next event can give (R59, R60). -/
theorem State.fetch_cases (s : State) :
    (s.events = [] ∧ s.fetch = .idle) ∨
    (∃ rest, s.events = .powerOn :: rest ∧ s.fetch = .powerOn { s with events := rest }) ∨
    (∃ a rest, s.events = .op a :: rest ∧ (s.port a).pending = [] ∧
      s.fetch = .skip { s with events := rest }) ∨
    (∃ a rest w ws, s.events = .op a :: rest ∧ (s.port a).pending = w :: ws ∧
      s.fetch = .command w
        ({ s with events := rest, issuer := a }.setPort a { s.port a with pending := ws })) := by
  unfold State.fetch
  match hev : s.events with
  | [] => exact .inl ⟨rfl, rfl⟩
  | .powerOn :: rest => exact .inr (.inl ⟨rest, rfl, rfl⟩)
  | .op a :: rest =>
    match hp : (s.port a).pending with
    | [] => exact .inr (.inr (.inl ⟨a, rest, rfl, hp, by simp [hp]⟩))
    | w :: ws => exact .inr (.inr (.inr ⟨a, rest, w, ws, rfl, hp, by simp [hp]⟩))

/-! ### The checksum -/

@[simp] theorem crcFold_nil (c : Word) : crcFold c [] = c := rfl
@[simp] theorem crcFold_cons (c : Word) (b : Byte) (s : List Byte) :
    crcFold c (b :: s) = crcFold (crcStep c b) s := rfl
theorem crcFold_append (c : Word) (s t : List Byte) : crcFold c (s ++ t) = crcFold (crcFold c s) t :=
  List.foldl_append

/-! ### A run of operations -/

theorem runOps_nil (s : State) : runOps [] s = .next s := rfl

theorem runOps_cons_of_next {i : Instr} {s t : State} (h : exec i s = .next t) (is : List Instr) :
    runOps (i :: is) s = runOps is t := by
  simp [runOps, h]

theorem runOps_append_of_next {is : List Instr} {s t : State} (h : runOps is s = .next t)
    (js : List Instr) : runOps (is ++ js) s = runOps js t := by
  induction is generalizing s with
  | nil => cases h; rfl
  | cons i is ih =>
    simp only [runOps, List.cons_append] at h ⊢
    split at h
    · exact ih h
    · cases h
    · cases h

end Sys2Proof.Machine
end

