-- ==== Sys2Proof/Laws/Exec.lean ====
section
/-! SUPPORT. What every operation has in common, said once: it answers, it ends by responding to its
issuer, and it leaves what is not the block's own state as it was; and what the loop of the tick needs:
the bound on its passes, what the flush leaves, the capacity applied more than once. No operation reads
the response its issuer held before. -/

namespace Sys2Proof.Machine

/-- Every operation ends by responding (R14) from a state that differs from the one it was issued in by
the block's own elements at most. -/
theorem exec_responds (i : Instr) (s : State) :
    ∃ t r, exec i s = .next (State.respond t r) ∧ t.params = s.params ∧ t.events = s.events ∧
      t.host = s.host ∧ t.transport = s.transport ∧ t.issuer = s.issuer := by
  cases i with
  | frmPop =>
    simp only [exec, execFrmPop]
    split <;> exact ⟨_, _, rfl, rfl, rfl, rfl, rfl, rfl⟩
  | frmTick rxAvail cmdSent => exact ⟨_, _, rfl, by simp, by simp, by simp, by simp, by simp⟩
  | frmRxbyte b =>
    simp only [exec, execFrmRxbyte]
    split <;> exact ⟨_, _, rfl, rfl, rfl, rfl, rfl, rfl⟩
  | crcInit => exact ⟨_, _, rfl, rfl, rfl, rfl, rfl, rfl⟩
  | crcUpdate b => exact ⟨_, _, rfl, rfl, rfl, rfl, rfl, rfl⟩
  | crcRead => exact ⟨_, _, rfl, rfl, rfl, rfl, rfl, rfl⟩
  | frmStatus rxAvail cmdSent => exact ⟨_, _, rfl, rfl, rfl, rfl, rfl, rfl⟩
  | blkReset => exact ⟨_, _, rfl, rfl, rfl, rfl, rfl, rfl⟩

/-- The two sentinel bytes differ. -/
@[simp] theorem sentinel1_ne_sentinel0 : Config.sentinel1 ≠ Config.sentinel0 := by decide
@[simp] theorem sentinel0_ne_sentinel1 : Config.sentinel0 ≠ Config.sentinel1 := by decide

/-- Only a sequence that holds a header has an expected length (R27). -/
theorem headerLen_le_of_explen {a : List Byte} {e : Nat} (h : explen a = some e) :
    Config.headerLen ≤ a.length := by
  unfold explen at h
  split at h
  · rename_i hh; exact hh.1
  · cases h

/-- A pass uses up at least one of the passes `tickFuel` counts (R171). -/
theorem State.tickFuel_tickPass (s : State) (hraw : s.raw ≠ []) :
    s.tickPass.tickFuel + 1 ≤ s.tickFuel := by
  have hl : 0 < s.raw.length := List.length_pos_iff.2 hraw
  rcases State.tickPass_cases s hraw with ⟨_, _, h, rest, hr⟩ | ⟨_, _, hne, h, _⟩ |
      ⟨p, e, _, _, h, _, _, hp⟩ | ⟨b, rest, _, _, _, h, hr⟩
  · rw [h]; simp [State.tickFuel, hr]; omega
  · have := List.length_pos_iff.2 hne
    rw [h]; simp [State.tickFuel]; omega
  · obtain ⟨h1, h2, _⟩ := embeddedAt_eq_some hp
    rw [h]; simp [State.tickFuel]; omega
  · rw [h]; simp [State.tickFuel, hr]; omega

/-- The flush leaves the accumulator empty (R168). -/
@[simp] theorem State.tickFlush_acc (s : State) : s.tickFlush.acc = [] := by
  unfold State.tickFlush
  split
  · rfl
  · rename_i h; exact List.length_eq_zero_iff.1 (by omega)

/-- Applying the capacity before more is pushed changes nothing (R163). -/
theorem newest_newest_append (cap : Nat) (q a : List (List Byte)) :
    newest cap (newest cap q ++ a) = newest cap (q ++ a) := by
  unfold newest
  simp only [List.length_append, List.length_drop]
  rw [show q.length - (q.length - cap) + a.length - cap =
    (q.length + a.length - cap) - (q.length - cap) by omega]
  rw [← List.drop_append_of_le_length (by omega), List.drop_drop]
  congr 1
  omega

/-- A tick neither reads nor writes the agents' sides of the interface (R32, R160). -/
theorem State.tick_setPort (s : State) (a : Agent) (p : Port) :
    (s.setPort a p).tick = s.tick.setPort a p := by
  have step : ∀ s : State, (s.setPort a p).tickStep = s.tickStep := fun _ => rfl
  have pass : ∀ s : State, (s.setPort a p).tickPass = s.tickPass.setPort a p := by
    intro s
    unfold State.tickPass
    rw [step]
    cases s.tickStep <;> cases a <;> rfl
  have loop : ∀ (n : Nat) (s : State),
      State.tickLoop n (s.setPort a p) = (State.tickLoop n s).setPort a p := by
    intro n
    induction n with
    | zero => intro s; rfl
    | succ n ih =>
      intro s
      simp only [State.tickLoop, State.setPort_raw, pass, ih]
      split <;> rfl
  have flush : ∀ s : State, (s.setPort a p).tickFlush = s.tickFlush.setPort a p := by
    intro s
    unfold State.tickFlush
    rw [State.setPort_acc]
    split
    · cases a <;> rfl
    · rfl
  exact (congrArg State.tickFlush (loop _ s)).trans (flush _)

/-- What an agent has been answered before is read by no operation: the response it gets replaces it. -/
theorem exec_setPort_resp (i : Instr) {s : State} {a : Agent} (h : s.issuer = a) (ws : List CmdWord)
    (x y : Option Response) : exec i (s.setPort a ⟨ws, x⟩) = exec i (s.setPort a ⟨ws, y⟩) := by
  have same : ∀ (f : State → State) (r : State → Response),
      (∀ p, f (s.setPort a p) = (f s).setPort a p) → (f s).issuer = a →
      (∀ p q, r (s.setPort a p) = r (s.setPort a q)) →
      (Host.Outcome.next ((f (s.setPort a ⟨ws, x⟩)).respond (r (s.setPort a ⟨ws, x⟩))) :
        Host.Outcome State Fault Refusal) =
        .next ((f (s.setPort a ⟨ws, y⟩)).respond (r (s.setPort a ⟨ws, y⟩))) := by
    intro f r hf hi hr
    rw [hf, hf, State.respond_setPort hi, State.respond_setPort hi, hr ⟨ws, x⟩ ⟨ws, y⟩]
  cases i with
  | crcInit =>
    exact same (fun t => { t with crc := Config.crcInit }) (fun _ => rspOk)
      (fun _ => by cases a <;> rfl) h (fun _ _ => rfl)
  | crcUpdate b =>
    exact same (fun t => { t with crc := crcStep t.crc b }) (fun _ => rspOk)
      (fun _ => by cases a <;> rfl) h (fun _ _ => rfl)
  | crcRead =>
    exact same id (fun t => { code := .ok, crc := some t.crc }) (fun _ => rfl) h (fun _ _ => rfl)
  | frmRxbyte b =>
    simp only [exec, execFrmRxbyte, State.setPort_raw, State.setPort_params]
    by_cases hb : s.raw.length < s.params.rawCap <;> simp only [hb, if_true, if_false]
    · exact same (·.pushRaw b) (fun _ => rspOk) (fun _ => by cases a <;> rfl) h (fun _ _ => rfl)
    · exact same (·.setRxovf) (fun _ => rspOk) (fun _ => by cases a <;> rfl) h (fun _ _ => rfl)
  | frmTick rxAvail cmdSent =>
    exact same State.tick (fun t => t.tick.statusResponse rxAvail cmdSent) (State.tick_setPort s a)
      (by simp [h]) (fun p q => by simp only [State.tick_setPort]; rfl)
  | frmPop =>
    simp only [exec, execFrmPop, State.setPort_cfq]
    split
    · exact same id (fun _ => { code := .empty }) (fun _ => rfl) h (fun _ _ => rfl)
    · rename_i f rest _
      exact same (fun t => { t with cfq := rest }) (fun _ => { code := .ok, frame := some f })
        (fun _ => by cases a <;> rfl) h (fun _ _ => rfl)
  | frmStatus rxAvail cmdSent =>
    exact same id (fun t => t.statusResponse rxAvail cmdSent) (fun _ => rfl) h (fun _ _ => rfl)
  | blkReset =>
    exact same State.resetBlock (fun _ => rspOk) (fun _ => by cases a <;> rfl) h (fun _ _ => rfl)

end Sys2Proof.Machine
end

