-- ==== Sys2Proof/Laws/PerInstr.lean ====
section
/-! SUPPORT. Statements made per operation, about the operation as syntax: its word selects its row of
the opcode map (spec/30_encoding.md R84) and is in the format R81 gives the row. -/

namespace Sys2Proof.Laws

/-- The word of `i` selects the row of the opcode map that has its mnemonic (R84). -/
def EncodeSelectsRow.Statement (i : Instr) : Prop :=
  ∃ r ∈ opcodeTable, r.mnemonic = i.mnemonic ∧ r.selects (encode i) = true

theorem EncodeSelectsRow.crcInit : EncodeSelectsRow.Statement .crcInit := by
  unfold EncodeSelectsRow.Statement; decide
theorem EncodeSelectsRow.crcUpdate : ∀ b, EncodeSelectsRow.Statement (.crcUpdate b) := by
  intro b
  refine ⟨⟨"CRC.UPDATE", .B, 0x200#12, 0xF00#12⟩, by decide, rfl, ?_⟩
  revert b; decide
theorem EncodeSelectsRow.crcRead : EncodeSelectsRow.Statement .crcRead := by
  unfold EncodeSelectsRow.Statement; decide
theorem EncodeSelectsRow.frmRxbyte : ∀ b, EncodeSelectsRow.Statement (.frmRxbyte b) := by
  intro b
  refine ⟨⟨"FRM.RXBYTE", .B, 0x400#12, 0xF00#12⟩, by decide, rfl, ?_⟩
  revert b; decide
theorem EncodeSelectsRow.frmTick :
    ∀ rxAvail cmdSent, EncodeSelectsRow.Statement (.frmTick rxAvail cmdSent) := by
  unfold EncodeSelectsRow.Statement; decide
theorem EncodeSelectsRow.frmPop : EncodeSelectsRow.Statement .frmPop := by
  unfold EncodeSelectsRow.Statement; decide
theorem EncodeSelectsRow.frmStatus :
    ∀ rxAvail cmdSent, EncodeSelectsRow.Statement (.frmStatus rxAvail cmdSent) := by
  unfold EncodeSelectsRow.Statement; decide
theorem EncodeSelectsRow.blkReset : EncodeSelectsRow.Statement .blkReset := by
  unfold EncodeSelectsRow.Statement; decide

end Sys2Proof.Laws
end

