-- ==== Sys2Proof/Tests/Slice0.lean ====
section
/-! SUPPORT. Tests: expected values are the spec's own (the rule or the vector of
spec/95_test_vectors.md is named at each), and one witness for the hypotheses of each obligation. -/

namespace Sys2Proof.Tests

open Sys2Proof.Machine

/-! ### Helpers -/

/-- The next state of an outcome, if it is one. -/
def nextOf : Host.Outcome State Fault Refusal → Option State
  | .next t => some t
  | .fault _ => none
  | .refused _ => none

/-- The parameters of most vectors of 95 parts 4 and 5. -/
def P64 : Params := ⟨64, 4, 64⟩

/-- The reset state of an instance with the bytes `raw` in its backlog. -/
def st (p : Params) (raw : List Byte) : State := { State.resetWith p with raw := raw }

/-- The reset state with the words `ws` pending at the host and a turn of the host for each. -/
def hostSt (ws : List CmdWord) : State :=
  { State.resetWith P64 with host := ⟨ws, none⟩, events := List.replicate ws.length (.op .host) }

/-- F1, F2, F3, F5, F6 of 95 part 3, the first sixteen-byte frame F4 (E1 = 16). -/
def F1 : List Byte := [0xA0#8, 0x00#8, 0x10#8, 0x02#8, 0x11#8, 0x22#8, 0x70#8, 0xF2#8]
def F2 : List Byte := [0xA0#8, 0x00#8, 0x1C#8, 0x00#8, 0x9D#8, 0x2D#8]
def F3 : List Byte := [0xA0#8, 0x00#8, 0x58#8, 0x03#8, 0xA0#8, 0x00#8, 0x07#8, 0xE7#8, 0xF6#8]
def F4 : List Byte :=
  [0xA0#8, 0x00#8, 0x31#8, 0x0A#8, 0x01#8, 0x02#8, 0x03#8, 0x04#8, 0x05#8, 0x06#8, 0x07#8, 0x08#8,
   0x09#8, 0x0A#8, 0x4D#8, 0x84#8]
def F5 : List Byte := [0xA0#8, 0x00#8, 0xA0#8, 0x00#8, 0x0E#8, 0xE3#8]
def F6 : List Byte := [0xA0#8, 0x00#8, 0x1C#8, 0x01#8, 0x7E#8, 0x79#8, 0x5B#8]

/-! ### WellFormed: an ill-formed term for each check (R8, R70) -/

theorem test_wf_params_accepts_least : Params.wf ⟨6, 1, 2⟩ = true := by decide
theorem test_wf_params_refuses_short_max_len : Params.wf ⟨5, 1, 2⟩ = false := by decide
theorem test_wf_params_refuses_no_queue : Params.wf ⟨6, 0, 2⟩ = false := by decide
theorem test_wf_params_refuses_one_byte_backlog : Params.wf ⟨6, 1, 1⟩ = false := by decide
theorem test_wf_frame_accepts_F1_to_F6 :
    [F1, F2, F3, F4, F5, F6].all Frame.wf = true := by decide
theorem test_wf_frame_refuses_first_byte : Frame.wf (0xA1#8 :: F2.tail) = false := by decide
theorem test_wf_frame_refuses_second_byte : Frame.wf (F2.set 1 0x01#8) = false := by decide
theorem test_wf_frame_refuses_length : Frame.wf (F2.set 3 0x01#8) = false := by decide

/-! ### Decode: words of 95 part 6, written from R81 and R84 -/

theorem test_decode_crcInit : decode 0b000100000000#12 = .ok .crcInit := by decide
theorem test_decode_crcUpdate : decode 0b001000110001#12 = .ok (.crcUpdate 0x31#8) := by decide
theorem test_decode_crcRead : decode 0b001100000000#12 = .ok .crcRead := by decide
theorem test_decode_frmRxbyte : decode 0b010010100000#12 = .ok (.frmRxbyte 0xA0#8) := by decide
theorem test_decode_frmTick_rx : decode 0b010100000001#12 = .ok (.frmTick true false) := by decide
theorem test_decode_frmTick_cmd : decode 0b010100000010#12 = .ok (.frmTick false true) := by decide
theorem test_decode_frmPop : decode 0b011000000000#12 = .ok .frmPop := by decide
theorem test_decode_frmStatus : decode 0b011100000011#12 = .ok (.frmStatus true true) := by decide
theorem test_decode_blkReset : decode 0b100000000000#12 = .ok .blkReset := by decide
theorem test_decode_reserved :
    [0x000#12, 0x0FF#12, 0x900#12, 0xA31#12, 0xFFF#12, 0x101#12, 0x3FF#12, 0x601#12, 0x880#12,
      0x504#12, 0x5FF#12, 0x708#12].all (fun w => (decode w).toOption.isNone) = true := by decide
theorem test_decodeTableWord :
    decodeTableWord 12 0x2FF = some (.crcUpdate 0xFF#8) ∧ decodeTableWord 16 0x1100 = none := by
  decide

/-! ### One operation each, from the vectors of 95 parts 2 and 4 -/

/-- R100: with `CRC = 0x1234`, CRC.INIT leaves 0xFFFF. -/
theorem test_crcInit :
    (nextOf (exec .crcInit { st P64 [] with crc := 0x1234#16 })).map (·.crc) = some 0xFFFF#16 := by
  decide

/-- 95 part 2.1, first row. -/
theorem test_crcUpdate :
    (nextOf (exec (.crcUpdate 0x31#8) (st P64 []))).map (·.crc) = some 0x2F8D#16 := by decide

/-- 95 part 2.1: the row with the high byte in play. -/
theorem test_crcUpdate_high_byte :
    (nextOf (exec (.crcUpdate 0x00#8) { st P64 [] with crc := 0x1234#16 })).map (·.crc) =
      some 0x77B5#16 := by decide

/-- 95 part 2.3, first row. -/
theorem test_crcRead :
    (nextOf (exec .crcRead (st P64 []))).bind (·.host.resp) =
      some { code := .ok, crc := some 0xFFFF#16 } := by decide

/-- R141: `RAW_CAP = 2`, `RAW = A0 00`; the byte is dropped and `RXOVF` set. -/
theorem test_frmRxbyte_full :
    (nextOf (exec (.frmRxbyte 0x1C#8) (st ⟨64, 4, 2⟩ [0xA0#8, 0x00#8]))).map
      (fun t => (t.raw, t.rxovf)) = some ([0xA0#8, 0x00#8], true) := by decide

/-- R140. -/
theorem test_frmRxbyte :
    (nextOf (exec (.frmRxbyte 0x00#8) (st P64 [0xA0#8]))).map (fun t => (t.raw, t.rxovf)) =
      some ([0xA0#8, 0x00#8], false) := by decide

/-- 95 part 4: pop of `[F2, F1]`. -/
theorem test_frmPop :
    (nextOf (exec .frmPop { st P64 [] with cfq := [F2, F1] })).map
      (fun t => (t.cfq, t.host.resp)) = some ([F1], some { code := .ok, frame := some F2 }) := by
  decide

/-- 95 part 4: bytes not yet ticked are invisible to FRM.POP. -/
theorem test_frmPop_empty :
    (nextOf (exec .frmPop (st P64 [0xA0#8, 0x00#8]))).map (fun t => (t.raw, t.host.resp)) =
      some ([0xA0#8, 0x00#8], some { code := .empty }) := by decide

/-- 95 part 4: pending wins over busy. -/
theorem test_frmStatus_pending :
    (nextOf (exec (.frmStatus false true) { st P64 [] with cfq := [F1] })).bind (·.host.resp) =
      some { code := .ok, sniff := some .framePending, rxovf := some false, count := some 1 } := by
  decide

/-- 95 part 4: a byte in the backlog makes the block busy. -/
theorem test_frmStatus_busy :
    (nextOf (exec (.frmStatus false false) (st P64 [0xA0#8]))).bind (·.host.resp) =
      some { code := .ok, sniff := some .busy, rxovf := some false, count := some 0 } := by decide

/-- R146, the example. -/
theorem test_blkReset :
    (nextOf (exec .blkReset
      { st P64 [0x11#8] with crc := 0x70F2#16, cfq := [F2], rxovf := true })).map
      (fun t => (t.crc, t.raw, t.cfq, t.rxovf)) = some (0xFFFF#16, [], [], false) := by decide

/-- 95 part 5.1, T17: two merges, two splits. -/
theorem test_frmTick_T17_trace :
    (st P64 (F3.take 6 ++ F2)).tickTrace =
      [.append, .append, .append, .append, .merge, .merge, .append, .append, .split 4, .append,
        .split 2, .append] := by decide

/-- 95 part 4: the tick after an overflow, `FQ_CAP = 2`, `RAW_CAP = 8`. -/
theorem test_frmTick_overflowed :
    (nextOf (exec (.frmTick false false)
      { st ⟨64, 2, 8⟩ (F2 ++ [0xA0#8, 0x00#8]) with rxovf := true })).map
      (fun t => (t.raw, t.cfq, t.host.resp)) =
      some ([], [F2, [0xA0#8, 0x00#8]],
        some { code := .ok, sniff := some .framePending, rxovf := some true, count := some 2 }) := by
  decide +kernel

/-- 95 part 5.1, T10: the oldest frame is dropped at the third push. -/
theorem test_tick_T10_queue : (st ⟨64, 2, 64⟩ (F2 ++ F6 ++ F1)).tick.cfq = [F6, F1] := by decide +kernel

/-- 95 part 5.1, T11a: `FRAME_MAX_LEN = 6` refuses the merge. -/
theorem test_tick_T11a :
    (st ⟨6, 4, 64⟩ (F4.take 8 ++ F2)).tickCandidates = [F4.take 8, F2] := by decide +kernel

/-- The machine step: a reserved word is answered `RSP_ERR_OP` (95 part 7, P5). -/
theorem test_step_reserved :
    (nextOf (step (hostSt [0x504#12]))).map (·.host) = some ⟨[], some { code := .errOp }⟩ := by
  decide +kernel

/-- The first operation after reset, of an instance of which only the bounds of R8 are known. -/
theorem test_step_first_word :
    (nextOf (step (State.reset.withFetchWord 12 0x4A0))).map (·.raw) = some [0xA0#8] := by decide +kernel

/-! ### Pseudo-operations, from the vectors of 95 part 3 -/

theorem test_crc16_check_value :
    crc16 [0x31#8, 0x32#8, 0x33#8, 0x34#8, 0x35#8, 0x36#8, 0x37#8, 0x38#8, 0x39#8] = 0x6F91#16 := by
  decide +kernel

theorem test_frameSeal :
    (frameSeal [0xA0#8, 0x00#8, 0x58#8, 0x03#8, 0xA0#8, 0x00#8, 0x07#8, 0x55#8, 0x55#8]
      (st P64 [])).map (·.2) = some F3 := by decide +kernel

theorem test_frameVerify_swapped :
    (frameVerify [0xA0#8, 0x00#8, 0x10#8, 0x02#8, 0x11#8, 0x22#8, 0xF2#8, 0x70#8] (st P64 [])).map
      (·.2) = some .errCrc := by decide +kernel

theorem test_frameExplen_longest :
    frameExplen [0xA0#8, 0x00#8, 0x7F#8, 0xFF#8] = some 261 ∧
      frameExplen [0xA0#8, 0x01#8, 0x10#8, 0x02#8] = none := by decide +kernel

theorem test_frameLenchk :
    frameLenchk [0xA0#8, 0x00#8, 0x1C#8, 0x00#8, 0x9D#8, 0x2D#8, 0x77#8, 0x88#8] = some .errLen := by
  decide +kernel

theorem test_frameCheck_checksum_first :
    (frameCheck (F4.take 6 ++ F2) (st P64 [])).map (·.2) = some .errCrc := by decide +kernel

/-- R90: an omitted flag is 0; FRM.RXBYTES is one FRM.RXBYTE per byte. -/
theorem test_asm_expand :
    (AsmLine.frmTick none none).expand = [.frmTick false false] ∧
      (AsmLine.frmRxbytes [0xA0#8, 0x00#8]).expand = [.frmRxbyte 0xA0#8, .frmRxbyte 0x00#8] := by
  decide

/-- R90, the text of a line. -/
theorem test_asm_text : (Instr.crcUpdate 0x3F#8).asm = "CRC.UPDATE 0x3F" := by decide

/-! ### Witnesses: the hypotheses of each obligation can be met -/

theorem witness_DecodeEncodeAgree :
    (Instr.frmTick true false).wf = true ∧ decode 0x501#12 = .ok (.frmTick true false) := by decide

theorem witness_DecodeSelectsOpcodeRow :
    (⟨"BLK.RESET", .N, 0x800#12, 0xFFF#12⟩ : OpRow) ∈ opcodeTable ∧
      (0x800#12 &&& 0xFFF#12) = 0x800#12 := by decide

theorem witness_ReservedWordOnlyAnswersErrOp :
    (hostSt [0x0FF#12]).events = [.op .host] ∧ ((hostSt [0x0FF#12]).port .host).pending = [0x0FF#12] ∧
      decode 0x0FF#12 = .error .opcode ∧ decode 0x900#12 = .error .opcode ∧
      decode 0x101#12 = .error .argument ∧ decode 0x504#12 = .error .flagBits := by decide

theorem witness_StepRunsDecodedInstruction :
    (hostSt [0x100#12, 0x300#12]).events = .op .host :: [.op .host] ∧
      ((hostSt [0x100#12, 0x300#12]).port .host).pending = 0x100#12 :: [0x300#12] ∧
      decode 0x100#12 = .ok .crcInit ∧ decodeTableWord 12 0x800 = some .blkReset := by decide

theorem witness_IdleHoldsAndPowerOnResets :
    (hostSt []).events = [] ∧
      ({ hostSt [] with events := [.op .transport] }.port .transport).pending = [] ∧
      { hostSt [] with events := [.powerOn, .op .host] }.events = .powerOn :: [.op .host] := by decide

theorem witness_InterleavingKeepsEachAgentsOrder :
    ∃ t, Host.Core.run Sys2Proof.core 2
      { hostSt [0x100#12] with
        transport := ⟨[0x4A0#12, 0x400#12], none⟩
        events := [.op .transport, .op .host] } = .next t ∧ t.raw = [0xA0#8] :=
  ⟨_, rfl, rfl⟩

theorem witness_StepAnswersItsIssuerOnly :
    (hostSt [0x300#12]).events = .op .host :: [] ∧
      ((hostSt [0x300#12]).port .host).pending = 0x300#12 :: [] ∧ decode 0x300#12 = .ok .crcRead ∧
      (∃ t, step (hostSt [0x300#12]) = .next t) ∧
      (hostSt [0x900#12]).events = .op .host :: [] ∧
      ((hostSt [0x900#12]).port .host).pending = 0x900#12 :: [] ∧ decode 0x900#12 = .error .opcode ∧
      ∃ t, step (hostSt [0x900#12]) = .next t :=
  ⟨rfl, rfl, by decide, ⟨_, rfl⟩, rfl, rfl, by decide, _, rfl⟩

/-- A response held before is not the operation's answer: CRC.READ with a reserved word's answer held. -/
theorem test_step_replaces_held_response :
    (nextOf (step { hostSt [0x300#12] with host := ⟨[0x300#12], some { code := .errOp }⟩ })).map
      (·.host) = some ⟨[], some { code := .ok, crc := some 0xFFFF#16 }⟩ := by decide +kernel

theorem witness_HostProgramRunsInOrder :
    [Instr.crcInit, .crcRead] ≠ [] ∧
      (hostSt [0x100#12, 0x300#12]).host.pending = [Instr.crcInit, .crcRead].map encode ++ [] ∧
      (hostSt [0x100#12, 0x300#12]).events = List.replicate 2 (.op .host) ++ [] := by decide

theorem witness_ResetGivesStatedValues :
    ∃ t, exec .blkReset { st P64 F1 with crc := 0x0000#16, rxovf := true } = .next t := ⟨_, rfl⟩

theorem witness_CrcInitResult_CrcReadResult :
    ∃ t, exec .crcInit { st P64 [] with crc := 0x1234#16 } = .next t ∧ t.crc = 0xFFFF#16 :=
  ⟨_, rfl, rfl⟩

theorem witness_ChecksumIsLinear : F1.length = (List.replicate 8 0x01#8).length := by decide

theorem witness_CrcStepIsBijective :
    (0x0000#16 : Word) ≠ 0xFFFF#16 ∧ [0x00#8, 0x01#8][1]? = some 0x01#8 ∧ (0x01#8 : Byte) ≠ 0x00#8 ∧
      ∀ (j : Nat) (c : Byte), j ≠ 1 → [0x00#8, 0x01#8][j]? = some c → c = 0x00#8 := by
  refine ⟨by decide, by decide, by decide, fun j c hj hc => ?_⟩
  match j with
  | 0 => simpa using hc.symm
  | 1 => exact absurd rfl hj
  | j + 2 => simp at hc

theorem witness_SingleBitFlipChangesChecksum :
    7 < F1.length ∧ 7 < 8 ∧ F1[7]? ≠ some 0x00#8 ∧ 5 < F2.length ∧
      F1.length - 7 = F2.length - 5 := by decide

theorem witness_ComputeGivesCrc16OfRange :
    0 ≤ 1 ∧ 1 ≤ [0x31#8].length ∧
      [Instr.crcInit, .frmPop, .crcUpdate 0x31#8, .frmTick false false, .crcRead].filter (·.isCrc) =
        crcComputeOps [0x31#8] 0 1 ∧
      ∀ o ∈ [Instr.crcInit, .frmPop, .crcUpdate 0x31#8, .frmTick false false, .crcRead],
        o.isCrc = true ∨ o.isFramer = true := by decide

/-- The clause on what CRC.READ answers: framer operations before and after it, an empty range too. -/
theorem witness_ComputeGivesCrc16OfRange_answer :
    ([Instr.crcInit, .frmPop, .crcUpdate 0x31#8] ++ Instr.crcRead :: [Instr.frmTick true false]).filter
        (·.isCrc) = crcComputeOps [0x31#8] 0 1 ∧
      (∀ o ∈ [Instr.crcInit, .frmPop, .crcUpdate 0x31#8] ++ Instr.crcRead :: [Instr.frmTick true false],
        o.isCrc = true ∨ o.isFramer = true) ∧
      ([Instr.frmPop, .crcInit] ++ Instr.crcRead :: []).filter (·.isCrc) = crcComputeOps [0x31#8] 1 1 ∧
      ∀ o ∈ [Instr.frmPop, .crcInit] ++ Instr.crcRead :: [], o.isCrc = true ∨ o.isFramer = true := by
  decide

theorem witness_ExpectedLengthOfHeader :
    frameExplen F2 = some 6 ∧ frameExplen [0xA0#8, 0x00#8, 0x7F#8, 0xFF#8] = some 261 := by decide

theorem witness_SealStoresChecksumBigEndian : 2 ≤ [0x00#8, 0x00#8].length := by decide

theorem witness_OperandsOutOfRangeHaveNoResult :
    0 < 1 ∧ [0x00#8].length < 2 ∧ (F2.take 3).length < 4 := by decide

theorem witness_CheckReturnsFirstFailure_and_DecoderChecks : (F2.take 5).length < 6 := by decide

theorem witness_SealedFrameVerifiesAndFlipsAreCaught :
    2 ≤ F2.length ∧ F2.length = 6 + (0x00#8 : Byte).toNat ∧
      F2.take 4 = [0xA0#8, 0x00#8, 0x1C#8, 0x00#8] ∧
      frameSeal F2 (st P64 []) = some
        ({ st P64 [] with
            crc := 0x9D2D#16, host := ⟨[], some { code := .ok, crc := some 0x9D2D#16 }⟩ }, F2) ∧
      5 < F2.length ∧ 7 < 8 := by decide +kernel

theorem witness_RxbyteQueuesOrMarksOverflow :
    (st ⟨6, 1, 2⟩ [0xA0#8]).raw.length < (st ⟨6, 1, 2⟩ [0xA0#8]).params.rawCap ∧
      (st ⟨6, 1, 2⟩ [0xA0#8, 0x00#8]).params.rawCap ≤ (st ⟨6, 1, 2⟩ [0xA0#8, 0x00#8]).raw.length := by
  decide

theorem witness_BacklogKeepsReceivedPrefix :
    (st ⟨6, 1, 2⟩ [0xA0#8, 0x00#8]).raw.length ≤ (st ⟨6, 1, 2⟩ [0xA0#8, 0x00#8]).params.rawCap := by
  decide

theorem witness_PopTakesFramesInOrder :
    (st P64 []).cfq = [] ∧ { st P64 [] with cfq := [F2, F1] }.cfq = F2 :: [F1] ∧
      { st P64 [] with cfq := [F2, F1] }.cfq[1]? = some F1 := by decide

theorem witness_StatusReportsFirstThatHolds :
    { st P64 [] with cfq := [F2] }.cfq ≠ [] ∧ (st P64 [0xA0#8]).cfq = [] ∧
      (st P64 [0xA0#8]).raw ≠ [] ∧ (st P64 []).cfq = [] ∧ (st P64 []).raw = [] ∧
      (st P64 []).acc = [] := by decide

theorem witness_RxovfIsStickyUntilReset :
    (∃ t, exec .frmPop { st P64 [] with rxovf := true } = .next t) ∧
      (∃ t, exec (.frmRxbyte 0x01#8) (st ⟨6, 1, 2⟩ [0xA0#8, 0x00#8]) = .next t ∧ t.rxovf = true) ∧
      (st ⟨6, 1, 2⟩ [0xA0#8, 0x00#8]).rxovf = false ∧
      (∃ t, exec .blkReset (st P64 []) = .next t) ∧
      (∃ t, exec (.frmTick true true) (st P64 []) = .next t) ∧
      (∃ t, exec (.frmStatus true true) (st P64 []) = .next t) :=
  ⟨⟨_, rfl⟩, ⟨_, rfl, rfl⟩, rfl, ⟨_, rfl⟩, ⟨_, rfl⟩, ⟨_, rfl⟩⟩

theorem witness_ElementsChangeOnlyByTheirWriters_and_ResponseFields :
    ∃ t, exec (.frmTick false false) (st P64 F2) = .next t ∧ t.raw ≠ (st P64 F2).raw ∧
      t.cfq ≠ (st P64 F2).cfq := ⟨_, rfl, by decide, by decide⟩

/-- The status clause, in each of its three cases. -/
theorem witness_ResponseFieldsAreTheOperationsOwn_sniff :
    (∃ t, exec (.frmTick false false) (st P64 F2) = .next t ∧
        t.answer.bind (·.sniff) = some .framePending) ∧
      (∃ t, exec (.frmTick false true) (st P64 []) = .next t ∧
        t.answer.bind (·.sniff) = some .busy) ∧
      ∃ t, exec (.frmStatus false false) (st P64 []) = .next t ∧
        t.answer.bind (·.sniff) = some .idle :=
  ⟨⟨_, rfl, by decide⟩, ⟨_, rfl, by decide⟩, ⟨_, rfl, by decide⟩⟩

theorem witness_CrcAndFramerOperationsCommute :
    Instr.isCrc (.crcUpdate 0x31#8) = true ∧ Instr.isFramer (.frmTick false false) = true ∧
      ∃ t1 t2 u1 u2, exec (.crcUpdate 0x31#8) (st P64 F2) = .next t1 ∧
        exec (.frmTick false false) t1 = .next t2 ∧
        exec (.frmTick false false) (st P64 F2) = .next u1 ∧
        exec (.crcUpdate 0x31#8) u1 = .next u2 :=
  ⟨rfl, rfl, _, _, _, _, rfl, rfl, rfl, rfl⟩

theorem witness_ReadsAreIdempotentAndPopIsNot :
    (∃ t, exec .crcRead (st P64 []) = .next t) ∧
      (∃ t, exec (.frmTick true false) (st P64 F2) = .next t) ∧
      { st P64 [] with cfq := [F2] }.cfq = F2 :: [] ∧
      ∃ t u, exec .frmPop { st P64 [] with cfq := [F2] } = .next t ∧ exec .frmPop t = .next u :=
  ⟨⟨_, rfl⟩, ⟨_, rfl⟩, rfl, _, _, rfl, rfl⟩

/-- One state for each of the four clauses: T5 at its merge, T8 at its close, T3 at its split, and T3 before
its first byte. -/
def mergeSt : State := { st P64 (F3.drop 4) with acc := F3.take 4 }
def closeSt : State := { st P64 F2 with acc := [0x55#8, 0x66#8] }
def splitSt : State := { st P64 (F2.drop 4) with acc := F1.take 5 ++ F2.take 4 }
def appendSt : State := st P64 (F1.take 5 ++ F2)

theorem witness_PassDoesFirstApplicableStep_merge :
    mergeSt.raw = 0xA0#8 :: 0x00#8 :: F3.drop 6 ∧ mergeSt.acc ≠ [] ∧ explen mergeSt.acc = some 9 ∧
      mergeSt.acc.length < 9 ∧ mergeSt.acc.length ≤ mergeSt.params.frameMaxLen := by decide

theorem witness_PassDoesFirstApplicableStep_close :
    closeSt.raw = 0xA0#8 :: 0x00#8 :: F2.drop 2 ∧ closeSt.acc ≠ [] ∧
      ¬ ((∃ e, explen closeSt.acc = some e ∧ closeSt.acc.length < e) ∧
        closeSt.acc.length ≤ closeSt.params.frameMaxLen) := by
  refine ⟨by decide, by decide, fun h => ?_⟩
  obtain ⟨⟨e, he, _⟩, _⟩ := h
  have : explen closeSt.acc = none := by decide
  rw [this] at he
  cases he

theorem witness_PassDoesFirstApplicableStep_split :
    splitSt.raw = 0x9D#8 :: [0x2D#8] ∧ ¬ ((∃ more, splitSt.raw = 0xA0#8 :: 0x00#8 :: more) ∧
        splitSt.acc ≠ []) ∧
      explen splitSt.acc = some 8 ∧ 8 < splitSt.acc.length ∧ 1 ≤ 5 ∧
      splitSt.acc[5]? = some 0xA0#8 ∧ splitSt.acc[5 + 1]? = some 0x00#8 ∧
      ∀ q, 1 ≤ q → q < 5 → ¬ (splitSt.acc[q]? = some 0xA0#8 ∧ splitSt.acc[q + 1]? = some 0x00#8) := by
  refine ⟨by decide, fun h => ?_, by decide, by decide, by decide, by decide, by decide, ?_⟩
  · obtain ⟨⟨more, hm⟩, _⟩ := h
    have hd : splitSt.raw.head? = some 0x9D#8 := by decide
    rw [hm] at hd
    exact absurd hd (by simp)
  · intro q h1 h2
    have : ∀ q ∈ List.range 5, 1 ≤ q →
        ¬ (splitSt.acc[q]? = some 0xA0#8 ∧ splitSt.acc[q + 1]? = some 0x00#8) := by decide
    exact this q (List.mem_range.2 h2) h1

theorem witness_PassDoesFirstApplicableStep_append :
    appendSt.raw = 0xA0#8 :: (F1.take 5 ++ F2).tail ∧
      ¬ ((∃ more, appendSt.raw = 0xA0#8 :: 0x00#8 :: more) ∧ appendSt.acc ≠ []) ∧
      ¬ ((∃ e, explen appendSt.acc = some e ∧ e < appendSt.acc.length) ∧
        ∃ p, 1 ≤ p ∧ appendSt.acc[p]? = some 0xA0#8 ∧ appendSt.acc[p + 1]? = some 0x00#8) := by
  refine ⟨by decide, fun h => h.2 rfl, fun h => ?_⟩
  obtain ⟨⟨e, _, he⟩, _⟩ := h
  exact absurd he (Nat.not_lt_zero e)

/-- The values where the clauses meet, with a sentinel at the head. `F1.take 7` is 7 bytes with `EXPLEN` 8:
a merge at `|ACC| = FRAME_MAX_LEN`, a close at `|ACC| = FRAME_MAX_LEN + 1`. F1 is 8 bytes with `EXPLEN` 8: a
close at `|ACC| = EXPLEN`, whatever `FRAME_MAX_LEN`. -/
def atMaxSt : State := { st ⟨7, 4, 64⟩ F2 with acc := F1.take 7 }
def pastMaxSt : State := { st ⟨6, 4, 64⟩ F2 with acc := F1.take 7 }
def atExplenSt : State := { st P64 F2 with acc := F1 }

theorem witness_PassDoesFirstApplicableStep_at_max :
    atMaxSt.raw = 0xA0#8 :: 0x00#8 :: F2.drop 2 ∧ atMaxSt.acc ≠ [] ∧ explen atMaxSt.acc = some 8 ∧
      atMaxSt.acc.length < 8 ∧ atMaxSt.acc.length ≤ atMaxSt.params.frameMaxLen ∧
      atMaxSt.acc.length = atMaxSt.params.frameMaxLen ∧
      atMaxSt.tickPass = { atMaxSt with raw := F2.drop 2, acc := F1.take 7 ++ [0xA0#8, 0x00#8] } := by
  decide

theorem witness_PassDoesFirstApplicableStep_past_max :
    pastMaxSt.raw = 0xA0#8 :: 0x00#8 :: F2.drop 2 ∧ pastMaxSt.acc ≠ [] ∧
      explen pastMaxSt.acc = some 8 ∧ pastMaxSt.acc.length < 8 ∧
      pastMaxSt.acc.length = pastMaxSt.params.frameMaxLen + 1 ∧
      (¬ ((∃ e, explen pastMaxSt.acc = some e ∧ pastMaxSt.acc.length < e) ∧
        pastMaxSt.acc.length ≤ pastMaxSt.params.frameMaxLen)) ∧
      pastMaxSt.tickPass = { pastMaxSt with acc := [], cfq := [F1.take 7] } :=
  ⟨by decide, by decide, by decide, by decide, by decide, fun h => absurd h.2 (by decide), by decide⟩

theorem witness_PassDoesFirstApplicableStep_at_explen :
    atExplenSt.raw = 0xA0#8 :: 0x00#8 :: F2.drop 2 ∧ atExplenSt.acc ≠ [] ∧
      explen atExplenSt.acc = some 8 ∧ atExplenSt.acc.length = 8 ∧
      (¬ ((∃ e, explen atExplenSt.acc = some e ∧ atExplenSt.acc.length < e) ∧
        atExplenSt.acc.length ≤ atExplenSt.params.frameMaxLen)) ∧
      atExplenSt.tickPass = { atExplenSt with acc := [], cfq := [F1] } := by
  refine ⟨by decide, by decide, by decide, by decide, fun h => ?_, by decide⟩
  obtain ⟨⟨e, he, hl⟩, _⟩ := h
  have h8 : explen atExplenSt.acc = some 8 := by decide
  rw [h8] at he
  cases he
  exact absurd hl (by decide)

theorem witness_TickLoopEndsWithinTwiceTheBacklog : (st P64 F2).raw ≠ [] := by decide

theorem witness_PushKeepsNewestFrames : [F1, F2] ≠ [] := by decide

theorem witness_EmptyTickChangesNothing :
    (st P64 []).raw = [] ∧ (st P64 []).acc = [] ∧
      ∃ t, exec (.frmTick true false) (st P64 F2) = .next t := ⟨rfl, rfl, _, rfl⟩

theorem witness_TickConservesBytes :
    (st P64 F2).acc = [] ∧ (st P64 F2).cfq.length ≤ (st P64 F2).params.fqCap := by decide

/-- A merge puts the pair at index 4, and the append after it keeps it (95 part 5.1, T5). -/
theorem witness_EmbeddedSentinelsComeFromMerge :
    (st P64 F3).acc = [] ∧ (∀ j, j ≤ 5 → (State.passes j (st P64 F3)).raw ≠ []) ∧
      pairAt (State.passes 4 (st P64 F3)).tickPass.acc 4 = true ∧
      (State.passes 4 (st P64 F3)).tickStep = .merge ∧
      pairAt (State.passes 5 (st P64 F3)).tickPass.acc 4 = true ∧
      (State.passes 5 (st P64 F3)).tickStep = .append := by
  refine ⟨rfl, ?_, by decide, by decide, by decide, by decide⟩
  intro j hj
  have hj' : j ∈ List.range 6 := List.mem_range.2 (by omega)
  have : ∀ j ∈ List.range 6, (State.passes j (st P64 F3)).raw ≠ [] := by decide
  exact this j hj'

/-- A split at 4 keeps the second merged pair of 95 part 5.1, T17: at index 6 before it, at index 2 after. -/
theorem witness_EmbeddedSentinelsComeFromMerge_split :
    (st P64 (F3.take 6 ++ F2)).acc = [] ∧
      (∀ j, j ≤ 8 → (State.passes j (st P64 (F3.take 6 ++ F2))).raw ≠ []) ∧
      pairAt (State.passes 8 (st P64 (F3.take 6 ++ F2))).tickPass.acc 2 = true ∧
      (State.passes 8 (st P64 (F3.take 6 ++ F2))).tickStep = .split 4 := by
  refine ⟨rfl, fun j hj => ?_, by decide, by decide⟩
  have h : ∀ j ∈ List.range 9, (State.passes j (st P64 (F3.take 6 ++ F2))).raw ≠ [] := by decide
  exact h j (List.mem_range.2 (by omega))

theorem witness_CleanStreamIsCutIntoItsFrames :
    (st P64 (F3 ++ F2)).acc = [] ∧ [F3, F2].all (cleanFrame P64) = true ∧
      (st P64 (F3 ++ F2)).raw = ([F3] ++ [F2]).flatten := by decide

/-- Both sides of each boundary of 95 part 5.3: `m` = 3 (a), 4 and 11 (c), 12 (b). -/
theorem witness_TruncatedFrameThenFrame :
    cleanFrame P64 F4 = true ∧ cleanFrame P64 F2 = true ∧ noInnerPair F2 = true ∧
      [3, 4, 11, 12].all (fun m => noInnerPair (F4.take m)) = true ∧
      11 + F2.length = F4.length + 1 ∧ 12 + F2.length = F4.length + 2 ∧ 12 < F4.length := by decide

theorem witness_TickBoundaryAtCloseIsHarmless :
    (st P64 (F1 ++ F2)).tickCuts = [] ++ (.close, F1) :: [] ∧
      8 = (([] : List (TickStep × List Byte)).map (·.2)).flatten.length + F1.length := by decide

theorem witness_TickInsideFrameLosesIt : (st P64 []).acc = [] ∧ 1 ≤ 5 ∧ 5 < F1.length := by decide

theorem witness_HeaderLookAlikesAreMiscut :
    (st P64 F5).raw = 0xA0#8 :: 0x00#8 :: 0xA0#8 :: 0x00#8 :: [0x0E#8, 0xE3#8] ∧
      (st P64 [0xA0#8, 0x00#8, 0x10#8, 0xA0#8, 0x00#8]).raw =
        0xA0#8 :: 0x00#8 :: 0x10#8 :: 0xA0#8 :: 0x00#8 :: [] := by decide

/-- A frame of 14 bytes with the pair at index 8, inside a stream: `FRAME_MAX_LEN = 7`, the least value that
the index exceeds, and at `FRAME_MAX_LEN = 8` the frame comes out whole. -/
def F14 : List Byte :=
  [0xA0#8, 0x00#8, 0x10#8, 0x08#8, 0x01#8, 0x01#8, 0x01#8, 0x01#8, 0xA0#8, 0x00#8, 0x01#8, 0x01#8,
    0x01#8, 0x01#8]

theorem witness_PairBeyondMaxLenCutsFrame :
    (st ⟨7, 4, 64⟩ (F2 ++ F14 ++ F6)).acc = [] ∧ Frame.wf F14 = true ∧
      (st ⟨7, 4, 64⟩ (F2 ++ F14 ++ F6)).params.frameMaxLen < 8 ∧ pairAt F14 8 = true ∧
      (st ⟨8, 4, 64⟩ (F2 ++ F14 ++ F6)).tickCandidates = [F2, F14, F6] := by decide +kernel

theorem witness_InvHoldsAtReset : Params.wf P64 = true := by decide

theorem witness_StepKeepsInvariants :
    { hostSt [0x800#12] with raw := F1, cfq := [F2], rxovf := true }.Inv ∧
      ∃ t, step { hostSt [0x800#12] with raw := F1, cfq := [F2], rxovf := true } = .next t ∧
        t.rxovf = false := ⟨by decide, _, rfl, rfl⟩

theorem witness_CleanFramesReachTheHostInOrder :
    (st ⟨64, 3, 23⟩ []).Inv ∧ (st ⟨64, 3, 23⟩ []).raw = [] ∧ (st ⟨64, 3, 23⟩ []).cfq = [] ∧
      (∀ g ∈ [F1, F2, F3], cleanFrame ⟨64, 3, 23⟩ g = true) ∧ [F1, F2, F3].flatten.length ≤ 23 ∧
      [F1, F2, F3].length ≤ 3 ∧ [F1, F2, F3][2]? = some F3 := by decide

end Sys2Proof.Tests
end

section
/-! The step of an agent's turn: the state in which the agent's word is carried out, what the step is then,
and what carrying out an operation leaves of the agents' sides of the interface (spec/00_scope.md R14,
spec/20_memory.md R60). -/

namespace Sys2Proof.Machine

/-! ### The state an agent's word is carried out in -/

/-- The state with an agent's turn and its first word taken: what `fetch` gives with a command word. -/
def State.taken (s : State) (a : Agent) (rest : List Event) (ws : List CmdWord) : State :=
  { s with events := rest, issuer := a }.setPort a { s.port a with pending := ws }

section
variable (s : State) (a : Agent) (rest : List Event) (ws : List CmdWord)

@[simp] theorem State.taken_events : (s.taken a rest ws).events = rest := rfl
@[simp] theorem State.taken_issuer : (s.taken a rest ws).issuer = a := rfl
@[simp] theorem State.taken_port_same :
    (s.taken a rest ws).port a = { s.port a with pending := ws } :=
  State.port_setPort_same _ a _

theorem State.taken_port_of_ne {b : Agent} (h : b ≠ a) : (s.taken a rest ws).port b = s.port b := by
  rw [State.taken, State.port_setPort_of_ne _ _ h]
  cases b <;> rfl

/-- An operation runs alike in the state in which the agent holds no response (R14). -/
theorem exec_taken (i : Instr) :
    exec i (s.taken a rest ws) =
      exec i ({ s with events := rest, issuer := a }.setPort a ⟨ws, none⟩) :=
  exec_setPort_resp i rfl ws (s.port a).resp none

end

/-! ### The step of an agent's turn -/

section
variable {s : State} {a : Agent} {rest : List Event} {w : CmdWord} {ws : List CmdWord}

theorem State.fetch_eq_command (hev : s.events = .op a :: rest) (hp : (s.port a).pending = w :: ws) :
    s.fetch = .command w (s.taken a rest ws) := by
  simp [State.fetch, hev, hp, State.taken]

theorem step_eq_exec_of_decode_ok (hev : s.events = .op a :: rest)
    (hp : (s.port a).pending = w :: ws) {i : Instr} (hd : decode w = .ok i) :
    step s = exec i (s.taken a rest ws) := by
  simp [step, State.fetch_eq_command hev hp, hd]

theorem step_eq_execReserved_of_decode_error (hev : s.events = .op a :: rest)
    (hp : (s.port a).pending = w :: ws) {e : Reserved} (hd : decode w = .error e) :
    step s = execReserved (s.taken a rest ws) := by
  simp [step, State.fetch_eq_command hev hp, hd]

end

/-! ### Who is answered -/

/-- From `s` to `t` the response `r` is handed to the issuer; nothing else of the agents' sides of the
interface, of the events or of the issuer changes. -/
structure AnswersIssuerOnly (s t : State) (r : Response) : Prop where
  issuer : t.issuer = s.issuer
  events : t.events = s.events
  issuerPort : t.port s.issuer = { s.port s.issuer with resp := some r }
  otherPort : ∀ b, b ≠ s.issuer → t.port b = s.port b

theorem State.respond_answersIssuerOnly (s : State) (r : Response) :
    AnswersIssuerOnly s (s.respond r) r where
  issuer := rfl
  events := rfl
  issuerPort := State.port_setPort_same s s.issuer _
  otherPort _ h := State.port_respond_of_ne s r h

/-- Every operation hands its issuer one response and nobody else any (R14). -/
theorem exec_answersIssuerOnly {i : Instr} {s t : State} (h : exec i s = .next t) :
    ∃ r, AnswersIssuerOnly s t r := by
  obtain ⟨u, r, hu, -, hevents, hhost, htransport, hissuer⟩ := exec_responds i s
  obtain rfl : u.respond r = t := Host.Outcome.next.inj (hu.symm.trans h)
  have hport : ∀ b, u.port b = s.port b
    | .host => hhost
    | .transport => htransport
  have hr := State.respond_answersIssuerOnly u r
  refine ⟨r, hr.issuer.trans hissuer, hr.events.trans hevents, ?_, fun b hb => ?_⟩
  · rw [← hissuer, hr.issuerPort, hport]
  · rw [hr.otherPort b (hissuer ▸ hb), hport]

/-- A reserved word's answer is `RSP_ERR_OP` with no other field (R86). -/
theorem execReserved_answersIssuerOnly {s t : State} (h : execReserved s = .next t) :
    AnswersIssuerOnly s t ⟨.errOp, none, none, none, none, none⟩ :=
  Host.Outcome.next.inj h ▸ State.respond_answersIssuerOnly s _

/-- What an answer in the state `taken` leaves, told of the state before the step. -/
theorem AnswersIssuerOnly.of_taken {s t : State} {a : Agent} {rest : List Event} {ws : List CmdWord}
    {r : Response} (h : AnswersIssuerOnly (s.taken a rest ws) t r) :
    t.issuer = a ∧ t.events = rest ∧ t.port a = ⟨ws, some r⟩ ∧ ∀ b, b ≠ a → t.port b = s.port b :=
  ⟨h.issuer, h.events, by simpa using h.issuerPort,
    fun b hb => (h.otherPort b hb).trans (State.taken_port_of_ne s a rest ws hb)⟩

/-- Settles O9, by the two ways a word decodes: an operation's word runs `exec` in the state `taken`, a
reserved one is answered `RSP_ERR_OP`. -/
theorem stepAnswersItsIssuerOnly : Obligations.StepAnswersItsIssuerOnly := by
  intro s t a rest w ws hev hp hstep
  cases hd : decode w with
  | ok i =>
    rw [step_eq_exec_of_decode_ok hev hp hd] at hstep
    obtain ⟨r, hr⟩ := exec_answersIssuerOnly hstep
    obtain ⟨hissuer, hevents, hport, hother⟩ := hr.of_taken
    refine ⟨hissuer, hevents, by rw [hport], hother, r, by rw [hport], fun j hj => ?_, nofun⟩
    cases hj
    rw [← exec_taken, hstep]
  | error e =>
    rw [step_eq_execReserved_of_decode_error hev hp hd] at hstep
    obtain ⟨hissuer, hevents, hport, hother⟩ := (execReserved_answersIssuerOnly hstep).of_taken
    exact ⟨hissuer, hevents, by rw [hport], hother, _, by rw [hport], nofun, fun _ _ => rfl⟩

end Sys2Proof.Machine
end

section
/-! What an operation, and a step, can leave of the state (spec/10_state.md R20, R26), and the invariants of
R29 along a step. -/

namespace Sys2Proof.Machine

/-! ### What an operation leaves, its response left out -/

/-- The state an operation responds from: the elements it writes (R20), everything else as it was. -/
def State.afterOp (s : State) : Instr → State
  | .crcInit => { s with crc := Config.crcInit }
  | .crcUpdate b => { s with crc := crcStep s.crc b }
  | .crcRead => s
  | .frmRxbyte b =>
    { s with
      raw := if s.raw.length < s.params.rawCap then s.raw ++ [b] else s.raw
      rxovf := if s.raw.length < s.params.rawCap then s.rxovf else true }
  | .frmTick _ _ => s.tick
  | .frmPop => { s with cfq := s.cfq.tail }
  | .frmStatus _ _ => s
  | .blkReset => s.resetBlock

/-- Every operation responds from `afterOp`, so what it leaves of the elements is what `afterOp` says. -/
theorem exec_eq_respond_afterOp (i : Instr) (s : State) :
    ∃ r, exec i s = .next ((s.afterOp i).respond r) := by
  cases i with
  | frmRxbyte b =>
    refine ⟨rspOk, ?_⟩
    by_cases hroom : s.raw.length < s.params.rawCap <;>
      simp [exec, execFrmRxbyte, State.afterOp, State.pushRaw, State.setRxovf, hroom]
  | frmPop =>
    match hq : s.cfq with
    | [] =>
      refine ⟨{ code := .empty }, ?_⟩
      have hkept : s.afterOp .frmPop = s := by rw [State.afterOp, hq, List.tail_nil, ← hq]
      simp only [exec, execFrmPop, hkept, hq]
    | f :: rest =>
      refine ⟨{ code := .ok, frame := some f }, ?_⟩
      simp only [exec, execFrmPop, State.afterOp, hq, List.tail_cons]
  | crcInit => exact ⟨_, rfl⟩
  | crcUpdate b => exact ⟨_, rfl⟩
  | crcRead => exact ⟨_, rfl⟩
  | frmTick rxAvail cmdSent => exact ⟨_, rfl⟩
  | frmStatus rxAvail cmdSent => exact ⟨_, rfl⟩
  | blkReset => exact ⟨_, rfl⟩

theorem eq_respond_afterOp_of_exec {i : Instr} {s t : State} (h : exec i s = .next t) :
    ∃ r, t = (s.afterOp i).respond r := by
  obtain ⟨r, hr⟩ := exec_eq_respond_afterOp i s
  exact ⟨r, Host.Outcome.next.inj (h.symm.trans hr)⟩

/-- What an operation changes before it responds is the five elements alone. -/
theorem State.afterOp_only (s : State) (i : Instr) :
    s.afterOp i =
      { s with
        crc := (s.afterOp i).crc
        raw := (s.afterOp i).raw
        acc := (s.afterOp i).acc
        cfq := (s.afterOp i).cfq
        rxovf := (s.afterOp i).rxovf } := by
  cases i with
  | frmTick rxAvail cmdSent => simp only [State.afterOp]; rw [State.tick_only]
  | _ => rfl

section
variable (s : State) (i : Instr)

@[simp] theorem State.afterOp_params : (s.afterOp i).params = s.params := by rw [State.afterOp_only]
@[simp] theorem State.afterOp_events : (s.afterOp i).events = s.events := by rw [State.afterOp_only]
@[simp] theorem State.afterOp_issuer : (s.afterOp i).issuer = s.issuer := by rw [State.afterOp_only]
@[simp] theorem State.afterOp_host : (s.afterOp i).host = s.host := by rw [State.afterOp_only]
@[simp] theorem State.afterOp_transport : (s.afterOp i).transport = s.transport := by
  rw [State.afterOp_only]

end

/-! ### The writers of each element (R20) -/

section
variable {s : State} {i : Instr}

theorem State.writer_of_afterOp_crc_ne (h : (s.afterOp i).crc ≠ s.crc) :
    i = .crcInit ∨ (∃ b, i = .crcUpdate b) ∨ i = .blkReset := by
  cases i with
  | crcInit => exact .inl rfl
  | crcUpdate b => exact .inr (.inl ⟨b, rfl⟩)
  | blkReset => exact .inr (.inr rfl)
  | frmTick rxAvail cmdSent => exact absurd s.tick_crc h
  | _ => exact absurd rfl h

theorem State.writer_of_afterOp_raw_ne (h : (s.afterOp i).raw ≠ s.raw) :
    (∃ b, i = .frmRxbyte b) ∨ (∃ rx cs, i = .frmTick rx cs) ∨ i = .blkReset := by
  cases i with
  | frmRxbyte b => exact .inl ⟨b, rfl⟩
  | frmTick rxAvail cmdSent => exact .inr (.inl ⟨rxAvail, cmdSent, rfl⟩)
  | blkReset => exact .inr (.inr rfl)
  | _ => exact absurd rfl h

theorem State.writer_of_afterOp_acc_ne (h : (s.afterOp i).acc ≠ s.acc) :
    (∃ rx cs, i = .frmTick rx cs) ∨ i = .blkReset := by
  cases i with
  | frmTick rxAvail cmdSent => exact .inl ⟨rxAvail, cmdSent, rfl⟩
  | blkReset => exact .inr rfl
  | _ => exact absurd rfl h

theorem State.writer_of_afterOp_cfq_ne (h : (s.afterOp i).cfq ≠ s.cfq) :
    (∃ rx cs, i = .frmTick rx cs) ∨ i = .frmPop ∨ i = .blkReset := by
  cases i with
  | frmTick rxAvail cmdSent => exact .inl ⟨rxAvail, cmdSent, rfl⟩
  | frmPop => exact .inr (.inl rfl)
  | blkReset => exact .inr (.inr rfl)
  | _ => exact absurd rfl h

/-- The writers of `RXOVF`, with what each leaves in it (R26, R141). -/
theorem State.writer_of_afterOp_rxovf_ne (h : (s.afterOp i).rxovf ≠ s.rxovf) :
    (∃ b, i = .frmRxbyte b ∧ s.params.rawCap ≤ s.raw.length ∧ (s.afterOp i).rxovf = true) ∨
      (i = .blkReset ∧ (s.afterOp i).rxovf = false) := by
  cases i with
  | frmRxbyte b =>
    by_cases hroom : s.raw.length < s.params.rawCap
    · exact absurd (if_pos hroom) h
    · exact .inl ⟨b, rfl, Nat.le_of_not_lt hroom, if_neg hroom⟩
  | frmTick rxAvail cmdSent => exact absurd s.tick_rxovf h
  | blkReset => exact .inr ⟨rfl, rfl⟩
  | _ => exact absurd rfl h

end

/-- A byte that finds the backlog full sets `RXOVF` (R141). -/
theorem State.afterOp_frmRxbyte_rxovf_of_full {s : State} (h : s.params.rawCap ≤ s.raw.length)
    (b : Byte) : (s.afterOp (.frmRxbyte b)).rxovf = true :=
  if_neg (Nat.not_lt.2 h)

/-- Only BLK.RESET clears `RXOVF` (R26). -/
theorem eq_blkReset_of_exec_clears_rxovf {i : Instr} {s t : State} (h : exec i s = .next t)
    (hs : s.rxovf = true) (ht : t.rxovf = false) : i = .blkReset := by
  obtain ⟨r, rfl⟩ := eq_respond_afterOp_of_exec h
  rw [State.respond_rxovf] at ht
  obtain ⟨_, _, _, hset⟩ | ⟨hreset, _⟩ := State.writer_of_afterOp_rxovf_ne (s := s) (i := i)
    (by rw [hs, ht]; decide)
  · rw [hset] at ht; cases ht
  · exact hreset

/-! ### What a step can do -/

/-- Everything a step can do: hold, use up an empty turn, reset at power-on, carry out an operation, or
answer a reserved word (R86, R210, R220). -/
theorem step_cases {s t : State} (h : step s = .next t) :
    (s.events = [] ∧ t = s) ∨
    (∃ rest, s.events = .powerOn :: rest ∧ t = State.resetBlock { s with events := rest }) ∨
    (∃ a rest, s.events = .op a :: rest ∧ (s.port a).pending = [] ∧ t = { s with events := rest }) ∨
    (∃ a rest w ws i, s.events = .op a :: rest ∧ (s.port a).pending = w :: ws ∧ decode w = .ok i ∧
      exec i (s.taken a rest ws) = .next t) ∨
    (∃ a rest w ws e, s.events = .op a :: rest ∧ (s.port a).pending = w :: ws ∧
      decode w = .error e ∧ t = (s.taken a rest ws).respond { code := .errOp }) := by
  obtain ⟨hev, hf⟩ | ⟨rest, hev, hf⟩ | ⟨a, rest, hev, hp, hf⟩ | ⟨a, rest, w, ws, hev, hp, -⟩ :=
    s.fetch_cases
  · rw [step, hf] at h
    exact .inl ⟨hev, (Host.Outcome.next.inj h).symm⟩
  · rw [step, hf] at h
    exact .inr (.inl ⟨rest, hev, (Host.Outcome.next.inj h).symm⟩)
  · rw [step, hf] at h
    exact .inr (.inr (.inl ⟨a, rest, hev, hp, (Host.Outcome.next.inj h).symm⟩))
  · cases hd : decode w with
    | ok i =>
      rw [step_eq_exec_of_decode_ok hev hp hd] at h
      exact .inr (.inr (.inr (.inl ⟨a, rest, w, ws, i, hev, hp, hd, h⟩)))
    | error e =>
      rw [step_eq_execReserved_of_decode_error hev hp hd] at h
      exact .inr (.inr (.inr (.inr ⟨a, rest, w, ws, e, hev, hp, hd, (Host.Outcome.next.inj h).symm⟩)))

/-! ### The invariants during a tick -/

/-- I3 and I4 of R29, of a queue: at most `FQ_CAP` frames, each of at least one byte and at most
`RAW_CAP`. -/
structure QueueWithin (p : Params) (q : List (List Byte)) : Prop where
  count : q.length ≤ p.fqCap
  frames : ∀ f ∈ q, 1 ≤ f.length ∧ f.length ≤ p.rawCap

theorem QueueWithin.nil (p : Params) : QueueWithin p [] := ⟨Nat.zero_le _, nofun⟩

theorem QueueWithin.tail {p : Params} {q : List (List Byte)} (h : QueueWithin p q) :
    QueueWithin p q.tail where
  count := by have := h.count; rw [List.length_tail]; omega
  frames f hf := h.frames f (List.mem_of_mem_tail hf)

/-- Pushing a frame within bounds and applying the capacity (R163) keeps the queue within bounds. -/
theorem QueueWithin.push {p : Params} {q : List (List Byte)} {f : List Byte} (h : QueueWithin p q)
    (hpos : 1 ≤ f.length) (hle : f.length ≤ p.rawCap) :
    QueueWithin p (newest p.fqCap (q ++ [f])) where
  count := by rw [newest, List.length_drop]; omega
  frames g hg := by
    obtain hq | hf := List.mem_append.1 (List.mem_of_mem_drop hg)
    · exact h.frames g hq
    · obtain rfl := List.mem_singleton.1 hf
      exact ⟨hpos, hle⟩

/-- What holds between the passes of a tick, where I2 (`ACC` empty) need not: `RAW` and `ACC` together hold
no more than a full backlog, so that every piece of `ACC` pushed as a frame fits I4. -/
structure State.Within (s : State) : Prop where
  params : s.params.wf = true
  bytes : s.raw.length + s.acc.length ≤ s.params.rawCap
  queue : QueueWithin s.params s.cfq

theorem State.inv_iff_within {s : State} : s.Inv ↔ s.Within ∧ s.acc = [] := by
  constructor
  · rintro ⟨hparams, hraw, hacc, hcount, hframes⟩
    exact ⟨⟨hparams, by simpa [hacc] using hraw, hcount, hframes⟩, hacc⟩
  · rintro ⟨⟨hparams, hbytes, hcount, hframes⟩, hacc⟩
    exact ⟨hparams, by omega, hacc, hcount, hframes⟩

theorem State.Within.tickPass {s : State} (h : s.Within) (hraw : s.raw ≠ []) : s.tickPass.Within := by
  have hbytes := h.bytes
  obtain ⟨_, _, hpass, rest, hr⟩ | ⟨_, _, hacc, hpass, _⟩ | ⟨p, e, _, _, hpass, _, _, hp⟩ |
    ⟨b, rest, _, _, _, hpass, hr⟩ := s.tickPass_cases hraw
  · refine hpass ▸ ⟨h.params, ?_, h.queue⟩
    simp only [hr, List.length_cons] at hbytes
    simp [hr]; omega
  · have hpos := List.length_pos_iff.2 hacc
    exact hpass ▸ ⟨h.params, by simp; omega, h.queue.push hpos (by omega)⟩
  · obtain ⟨hp1, hp2, _⟩ := embeddedAt_eq_some hp
    have hlen : (s.acc.take p).length = p := List.length_take_of_le (by omega)
    exact hpass ▸ ⟨h.params, by simp; omega, h.queue.push (by omega) (by omega)⟩
  · refine hpass ▸ ⟨h.params, ?_, h.queue⟩
    simp only [hr, List.length_cons] at hbytes
    simp [hr]; omega

theorem State.Within.tickLoop (n : Nat) {s : State} (h : s.Within) : (State.tickLoop n s).Within := by
  induction n generalizing s with
  | zero => exact h
  | succ n ih =>
    by_cases hraw : s.raw = []
    · rwa [State.tickLoop_nil _ _ hraw]
    · rw [State.tickLoop_succ _ _ hraw]
      exact ih (h.tickPass hraw)

theorem State.Within.tickFlush {s : State} (h : s.Within) : s.tickFlush.Within := by
  have hbytes := h.bytes
  unfold State.tickFlush
  split
  · next hpos => exact ⟨h.params, by simp; omega, h.queue.push hpos (by omega)⟩
  · exact h

/-- A tick keeps I1 to I4: they are relaxed to `Within` between its passes, and step 6 empties `ACC`. -/
theorem State.Inv.tick {s : State} (h : s.Inv) : s.tick.Inv :=
  State.inv_iff_within.2
    ⟨((State.inv_iff_within.1 h).1.tickLoop _).tickFlush, State.tickFlush_acc _⟩

/-! ### The invariants along a step -/

/-- I1 to I4 hold of emptied elements, whatever the state was before (R33). -/
theorem State.inv_of_elements_empty {s : State} (hparams : s.params.wf = true) (hraw : s.raw = [])
    (hacc : s.acc = []) (hcfq : s.cfq = []) : s.Inv :=
  State.inv_iff_within.2
    ⟨⟨hparams, by simp [hraw, hacc], hcfq ▸ QueueWithin.nil _⟩, hacc⟩

theorem State.Inv.afterOp {s : State} (h : s.Inv) (i : Instr) : (s.afterOp i).Inv := by
  cases i with
  | frmRxbyte b =>
    obtain ⟨hparams, hraw, hrest⟩ := h
    refine ⟨hparams, ?_, hrest⟩
    simp only [State.afterOp]
    split
    · next hroom => simpa using hroom
    · exact hraw
  | frmTick rxAvail cmdSent => exact h.tick
  | frmPop =>
    obtain ⟨⟨hparams, hbytes, hqueue⟩, hacc⟩ := State.inv_iff_within.1 h
    exact State.inv_iff_within.2 ⟨⟨hparams, hbytes, hqueue.tail⟩, hacc⟩
  | blkReset => exact State.inv_of_elements_empty h.1 rfl rfl rfl
  | crcInit => exact h
  | crcUpdate b => exact h
  | crcRead => exact h
  | frmStatus rxAvail cmdSent => exact h

theorem State.Inv.exec {i : Instr} {s t : State} (h : s.Inv) (hexec : exec i s = .next t) : t.Inv := by
  obtain ⟨r, rfl⟩ := eq_respond_afterOp_of_exec hexec
  exact h.afterOp i

theorem exec_params {i : Instr} {s t : State} (h : exec i s = .next t) : t.params = s.params := by
  obtain ⟨r, rfl⟩ := eq_respond_afterOp_of_exec h
  simp

theorem State.Inv.step {s t : State} (h : s.Inv) (hstep : step s = .next t) : t.Inv := by
  obtain ⟨_, rfl⟩ | ⟨_, _, rfl⟩ | ⟨_, _, _, _, rfl⟩ | ⟨a, rest, _, ws, i, _, _, _, hexec⟩ |
    ⟨_, _, _, _, _, _, _, _, rfl⟩ := step_cases hstep
  · exact h
  · exact State.inv_of_elements_empty h.1 rfl rfl rfl
  · exact h
  · have htaken : (s.taken a rest ws).Inv := h
    exact htaken.exec hexec
  · exact h

theorem step_params {s t : State} (hstep : step s = .next t) : t.params = s.params := by
  obtain ⟨_, rfl⟩ | ⟨_, _, rfl⟩ | ⟨_, _, _, _, rfl⟩ | ⟨_, _, _, _, _, _, _, _, hexec⟩ |
    ⟨_, _, _, _, _, _, _, _, rfl⟩ := step_cases hstep
  · rfl
  · rfl
  · rfl
  · exact (exec_params hexec).trans rfl
  · rfl

/-- I5: what clears `RXOVF` in a step is power-on or BLK.RESET (R26, R220). -/
theorem powerOn_or_blkReset_of_step_clears_rxovf {s t : State} (hstep : step s = .next t)
    (hs : s.rxovf = true) (ht : t.rxovf = false) :
    (∃ rest, s.events = .powerOn :: rest) ∨
    ∃ (a : Agent) (rest : List Event) (w : CmdWord) (ws : List CmdWord),
      s.events = .op a :: rest ∧ (s.port a).pending = w :: ws ∧ decode w = .ok .blkReset := by
  have hkept : ¬ t.rxovf = s.rxovf := by rw [hs, ht]; decide
  obtain ⟨_, rfl⟩ | ⟨rest, hev, _⟩ | ⟨_, _, _, _, rfl⟩ | ⟨a, rest, w, ws, i, hev, hp, hd, hexec⟩ |
    ⟨_, _, _, _, _, _, _, _, rfl⟩ := step_cases hstep
  · exact absurd rfl hkept
  · exact .inl ⟨rest, hev⟩
  · exact absurd rfl hkept
  · obtain rfl := eq_blkReset_of_exec_clears_rxovf hexec hs ht
    exact .inr ⟨a, rest, w, ws, hev, hp, hd⟩
  · exact absurd rfl hkept

/-! ### The statements -/

/-- Settles O55, from the cases of a step: the invariants, the parameters and `RXOVF` each by what the five
things a step can do leave of them. -/
theorem stepKeepsInvariants : Obligations.StepKeepsInvariants :=
  fun _ _ hinv hstep =>
    ⟨hinv.step hstep, step_params hstep, powerOn_or_blkReset_of_step_clears_rxovf hstep⟩

/-- Settles O36, from the writers of `RXOVF` and what each leaves in it. -/
theorem rxovfIsStickyUntilReset : Obligations.RxovfIsStickyUntilReset := by
  refine ⟨fun i s t h hs hne => ?sticky, fun i s t h hs ht => ?setter, fun b s t h hfull => ?full,
    fun s t h => ?reset, fun rx cs s t h => ?reported, rfl⟩
  case sticky =>
    by_contra hclear
    exact hne (eq_blkReset_of_exec_clears_rxovf h hs (by simpa using hclear))
  case setter =>
    obtain ⟨r, rfl⟩ := eq_respond_afterOp_of_exec h
    rw [State.respond_rxovf] at ht
    obtain ⟨b, hi, hfull, _⟩ | ⟨_, hclear⟩ := State.writer_of_afterOp_rxovf_ne (s := s) (i := i)
      (by rw [hs, ht]; decide)
    · exact ⟨b, hi, hfull⟩
    · rw [ht] at hclear; cases hclear
  case full =>
    obtain ⟨r, rfl⟩ := eq_respond_afterOp_of_exec h
    exact State.afterOp_frmRxbyte_rxovf_of_full hfull b
  case reset =>
    obtain ⟨r, rfl⟩ := eq_respond_afterOp_of_exec h
    rfl
  case reported =>
    obtain h | h := h
    · obtain rfl := Host.Outcome.next.inj h
      simp [State.statusResponse]
    · obtain rfl := Host.Outcome.next.inj h
      simp [State.statusResponse]

/-- Settles O37: an operation responds from `afterOp`, whose writers of each element are the lemmas
above. -/
theorem elementsChangeOnlyByTheirWriters : Obligations.ElementsChangeOnlyByTheirWriters := by
  intro i s t h
  obtain ⟨r, rfl⟩ := eq_respond_afterOp_of_exec h
  refine ⟨?around, State.writer_of_afterOp_crc_ne, State.writer_of_afterOp_raw_ne,
    State.writer_of_afterOp_acc_ne, State.writer_of_afterOp_cfq_ne, fun hne => ?rxovf⟩
  case around => simpa [SameAround] using (s.afterOp i).respond_sameAround r
  case rxovf =>
    obtain ⟨b, hi, _, _⟩ | ⟨hi, _⟩ := State.writer_of_afterOp_rxovf_ne hne
    · exact .inl ⟨b, hi⟩
    · exact .inr hi

/-- The decoder's answer behind a row of the opcode table (R87, log 9). -/
theorem decode_of_decodeTableWord {nbits w : Nat} {i : Instr} (h : decodeTableWord nbits w = some i) :
    decode (BitVec.ofNat 12 w) = .ok i := by
  unfold decodeTableWord at h
  split at h
  · cases hd : decode (BitVec.ofNat 12 w) with
    | ok j => rw [hd] at h; rw [Option.some.inj h]
    | error e => rw [hd] at h; cases h
  · cases h

/-- Taking the word `withFetchWord` placed leaves the state it was placed in, with the host as issuer. -/
theorem State.withFetchWord_taken (s : State) (nbits w : Nat) :
    (s.withFetchWord nbits w).taken .host s.events s.host.pending = { s with issuer := .host } := rfl

/-- Settles O5, by the step of an agent's turn; the word of `withFetchWord` is the host's turn. -/
theorem stepRunsDecodedInstruction : Obligations.StepRunsDecodedInstruction := by
  refine ⟨fun s a rest w ws i hev hp hd => step_eq_exec_of_decode_ok hev hp hd,
    fun s nbits w i h => ?_⟩
  rw [← State.withFetchWord_taken s nbits w]
  exact step_eq_exec_of_decode_ok rfl rfl (decode_of_decodeTableWord h)

/-- Settles O11, by evaluation of the reset state and of what BLK.RESET leaves. -/
theorem resetGivesStatedValues : Obligations.ResetGivesStatedValues := by
  refine ⟨fun p => ⟨rfl, rfl, rfl, rfl, rfl⟩, ⟨rfl, rfl, rfl, rfl, rfl⟩, fun s t h => ?_⟩
  obtain ⟨r, rfl⟩ := eq_respond_afterOp_of_exec h
  exact ⟨rfl, rfl, rfl, rfl, rfl⟩

/-- The parameters of `State.reset` meet the bounds of R8 (log 4). -/
theorem config_params_wf : Config.params.wf = true := by
  simp [Params.wf, Config.params, Config.minFrameLen, Config.headerLen, Config.crcLen]

/-- Settles O54: the reset state's elements are empty. -/
theorem invHoldsAtReset : Obligations.InvHoldsAtReset :=
  ⟨fun _ hp => State.inv_of_elements_empty hp rfl rfl rfl,
    State.inv_of_elements_empty config_params_wf rfl rfl rfl⟩

end Sys2Proof.Machine
end

section
/-! Operations in sequence and in an order (spec/20_memory.md R56, R59, R60): the response of each operation
as a function of the state, the elements a tick reads, runs of steps, and what two operations in a row
leave. -/

namespace Sys2Proof.Machine

/-! ### The response of an operation -/

/-- What an operation answers in the state it is issued in (R85). -/
def State.opResponse (s : State) : Instr → Response
  | .crcInit => rspOk
  | .crcUpdate _ => rspOk
  | .crcRead => { code := .ok, crc := some s.crc }
  | .frmRxbyte _ => rspOk
  | .frmTick rxAvail cmdSent => s.tick.statusResponse rxAvail cmdSent
  | .frmPop =>
    match s.cfq with
    | [] => { code := .empty }
    | f :: _ => { code := .ok, frame := some f }
  | .frmStatus rxAvail cmdSent => s.statusResponse rxAvail cmdSent
  | .blkReset => rspOk

/-- Every operation is: write the elements as `afterOp` says, answer as `opResponse` says. -/
theorem exec_eq (i : Instr) (s : State) :
    exec i s = .next ((s.afterOp i).respond (s.opResponse i)) := by
  obtain ⟨r, hr⟩ := exec_eq_respond_afterOp i s
  suffices hresp : r = s.opResponse i by rw [hr, hresp]
  have hanswer : ∀ {u : State} {q : Response}, exec i s = .next (u.respond q) → r = q := by
    intro u q hq
    have heq := congrArg State.answer (Host.Outcome.next.inj (hr.symm.trans hq))
    simpa using heq
  cases i with
  | frmPop =>
    match hq : s.cfq with
    | [] => exact hanswer (u := s) (by simp [exec, execFrmPop, State.opResponse, hq])
    | f :: rest =>
      exact hanswer (u := { s with cfq := rest }) (by simp [exec, execFrmPop, State.opResponse, hq])
  | _ => exact hanswer rfl

theorem eq_respond_of_exec {i : Instr} {s t : State} (h : exec i s = .next t) :
    t = (s.afterOp i).respond (s.opResponse i) :=
  Host.Outcome.next.inj (h.symm.trans (exec_eq i s))

/-! ### What a tick reads -/

/-- `s` with the three elements a tick writes, and the parameters, taken from `u`. -/
def State.withFramer (s u : State) : State :=
  { s with raw := u.raw, acc := u.acc, cfq := u.cfq, params := u.params }

theorem State.tickPass_withFramer (s u : State) :
    (s.withFramer u).tickPass = s.withFramer u.tickPass := by
  have hstep : (s.withFramer u).tickStep = u.tickStep := rfl
  unfold State.tickPass
  rw [hstep]
  cases u.tickStep <;> rfl

theorem State.tickLoop_withFramer (n : Nat) (s u : State) :
    State.tickLoop n (s.withFramer u) = s.withFramer (State.tickLoop n u) := by
  induction n generalizing u with
  | zero => rfl
  | succ n ih =>
    by_cases hraw : u.raw = []
    · rw [State.tickLoop_nil _ u hraw, State.tickLoop_nil _ (s.withFramer u) hraw]
    · rw [State.tickLoop_succ n u hraw, State.tickLoop_succ n (s.withFramer u) hraw,
        State.tickPass_withFramer, ih]

theorem State.tickFlush_withFramer (s u : State) :
    (s.withFramer u).tickFlush = s.withFramer u.tickFlush := by
  by_cases hacc : 0 < u.acc.length
  · have hacc' : 0 < (s.withFramer u).acc.length := hacc
    simp only [State.tickFlush, if_pos hacc, if_pos hacc']
    rfl
  · have hacc' : ¬ 0 < (s.withFramer u).acc.length := hacc
    simp only [State.tickFlush, if_neg hacc, if_neg hacc']

/-- A tick reads `RAW`, `ACC`, `CFQ` and the parameters alone (R160, "State read"). -/
theorem State.tick_withFramer (s u : State) : (s.withFramer u).tick = s.withFramer u.tick :=
  (congrArg State.tickFlush (State.tickLoop_withFramer u.tickFuel s u)).trans
    (State.tickFlush_withFramer s _)

/-- Ticks from two states that agree on the framer's elements and the parameters agree on them too. -/
theorem State.sameFramer_tick {s u : State} (h : SameFramer s u) (hparams : s.params = u.params) :
    SameFramer s.tick u.tick := by
  obtain ⟨hraw, hacc, hcfq, hrxovf⟩ := h
  have hu : u = u.withFramer s := by rw [State.withFramer, hraw, hacc, hcfq, hparams]
  have htick : u.tick = u.withFramer s.tick := by rw [← State.tick_withFramer, ← hu]
  exact ⟨by rw [htick]; rfl, by rw [htick]; rfl, by rw [htick]; rfl, by simpa using hrxovf⟩

/-! ### What a tick leaves -/

theorem State.tickLoop_raw {n : Nat} {s : State} (h : s.tickFuel ≤ n) :
    (State.tickLoop n s).raw = [] := by
  induction n generalizing s with
  | zero => exact List.length_eq_zero_iff.1 (by unfold State.tickFuel at h; rw [State.tickLoop]; omega)
  | succ n ih =>
    by_cases hraw : s.raw = []
    · rwa [State.tickLoop_nil _ s hraw]
    · rw [State.tickLoop_succ n s hraw]
      have := s.tickFuel_tickPass hraw
      exact ih (by omega)

/-- A tick takes every byte out of the backlog (R160). -/
@[simp] theorem State.tick_raw (s : State) : s.tick.raw = [] := by
  rw [State.tick, State.tickFlush_raw, State.tickLoop_raw (Nat.le_refl _)]

@[simp] theorem State.tick_acc (s : State) : s.tick.acc = [] := State.tickFlush_acc _

/-- With nothing in `RAW` and `ACC` there is no pass and nothing to flush (R169). -/
theorem State.tick_of_empty {s : State} (hraw : s.raw = []) (hacc : s.acc = []) : s.tick = s := by
  rw [State.tick, State.tickLoop_nil _ _ hraw, State.tickFlush, hacc]
  rfl

/-! ### An operation with the agents' words and turns taken away -/

section
variable {s t : State} {a : Agent} (rest : List Event) (ws : List CmdWord)

theorem State.taken_self (h : s.issuer = a) : s.taken a s.events (s.port a).pending = s := by
  obtain ⟨_, _, _, _, _, _, _, _, _, issuer⟩ := s
  subst h
  cases issuer <;> rfl

theorem State.taken_taken (rest' : List Event) (ws' : List CmdWord) :
    (s.taken a rest ws).taken a rest' ws' = s.taken a rest' ws' := by
  cases a <;> rfl

theorem State.tick_taken : (s.taken a rest ws).tick = s.tick.taken a rest ws := by
  have hread : s.taken a rest ws = (s.taken a rest ws).withFramer s := rfl
  rw [hread, State.tick_withFramer, State.tick_only]
  cases a <;> rfl

theorem State.afterOp_taken (i : Instr) :
    (s.taken a rest ws).afterOp i = (s.afterOp i).taken a rest ws := by
  cases i with
  | frmTick rxAvail cmdSent => exact State.tick_taken rest ws
  | _ => cases a <;> rfl

theorem State.opResponse_taken (i : Instr) :
    (s.taken a rest ws).opResponse i = s.opResponse i := by
  cases i with
  | frmTick rxAvail cmdSent => simp only [State.opResponse, State.tick_taken]; rfl
  | _ => rfl

theorem State.respond_taken (h : s.issuer = a) (r : Response) :
    (s.taken a rest ws).respond r = (s.respond r).taken a rest ws := by
  subst h
  rw [State.taken, State.respond_setPort rfl]
  unfold State.respond State.taken
  cases s.issuer <;> rfl

/-- An operation reads neither the events nor its issuer's pending words, and leaves them alone. -/
theorem exec_taken_of_exec {i : Instr} (h : s.issuer = a) (hexec : exec i s = .next t) :
    exec i (s.taken a rest ws) = .next (t.taken a rest ws) := by
  rw [exec_eq, State.afterOp_taken, State.opResponse_taken, State.respond_taken rest ws (by simpa),
    eq_respond_of_exec hexec]

end

/-! ### Runs of steps -/

theorem run_succ_of_step {s t : State} (h : step s = .next t) (n : Nat) :
    Host.Core.run core (n + 1) s = Host.Core.run core n t := by
  have hcore : core.step s = .next t := h
  simp only [Host.Core.run, hcore]

/-- A run of `n + 1` steps that answers is a step and a run of `n`. -/
theorem step_of_run_succ {n : Nat} {s t : State} (h : Host.Core.run core (n + 1) s = .next t) :
    ∃ u, step s = .next u ∧ Host.Core.run core n u = .next t := by
  simp only [Host.Core.run] at h
  split at h
  · next u hu => exact ⟨u, hu, h⟩
  · cases h
  · cases h

/-! ### Each agent's own order -/

/-- From `s` to `t` the first `n` events are used up, with one pending word of an agent for each of its
turns among them, from the front (R59, R60). -/
structure UsesEvents (n : Nat) (s t : State) : Prop where
  events : t.events = s.events.drop n
  params : t.params = s.params
  pending : ∀ a : Agent, (t.port a).pending = (s.port a).pending.drop ((s.events.take n).count (.op a))

theorem UsesEvents.refl (s : State) : UsesEvents 0 s s := ⟨rfl, rfl, fun _ => rfl⟩

theorem UsesEvents.trans {m n : Nat} {s t u : State} (hst : UsesEvents m s t) (htu : UsesEvents n t u) :
    UsesEvents (m + n) s u where
  events := by rw [htu.events, hst.events, List.drop_drop]
  params := htu.params.trans hst.params
  pending a := by
    rw [htu.pending, hst.pending, hst.events, List.drop_drop, List.take_add, List.count_append]

/-- An agent's turn uses up that agent's first word, if it has one, and nothing of the other agent's. -/
theorem UsesEvents.of_turn {s t : State} {a : Agent} {rest : List Event}
    (hev : s.events = .op a :: rest) (hevents : t.events = rest) (hparams : t.params = s.params)
    (hissuer : (t.port a).pending = (s.port a).pending.tail)
    (hother : ∀ b, b ≠ a → t.port b = s.port b) : UsesEvents 1 s t where
  events := by rw [hevents, hev]; rfl
  params := hparams
  pending b := by
    by_cases hb : b = a
    · subst hb
      simp [hev, hissuer]
    · have hturn : Event.op a ≠ Event.op b := by simpa using Ne.symm hb
      simp [hev, hother b hb, hturn]

theorem usesEvents_of_step {s t : State} (h : step s = .next t) : UsesEvents 1 s t := by
  have hparams := step_params h
  have hanswered : ∀ {a rest w ws r}, s.events = .op a :: rest → (s.port a).pending = w :: ws →
      AnswersIssuerOnly (s.taken a rest ws) t r → UsesEvents 1 s t := by
    intro a rest w ws r hev hp hr
    obtain ⟨_, hevents, hport, hother⟩ := hr.of_taken
    exact .of_turn hev hevents hparams (by rw [hport, hp]; rfl) hother
  obtain ⟨hev, rfl⟩ | ⟨rest, hev, rfl⟩ | ⟨a, rest, hev, hp, rfl⟩ |
    ⟨a, rest, w, ws, i, hev, hp, _, hexec⟩ | ⟨a, rest, w, ws, e, hev, hp, _, rfl⟩ := step_cases h
  · exact ⟨by simp [hev], rfl, fun a => by simp [hev]⟩
  · exact ⟨by simp [hev], rfl, fun a => by cases a <;> simp [hev]⟩
  · have hport : ∀ b, ({ s with events := rest } : State).port b = s.port b := by
      intro b; cases b <;> rfl
    exact .of_turn hev rfl rfl (by rw [hport, hp]; rfl) (fun b _ => hport b)
  · obtain ⟨r, hr⟩ := exec_answersIssuerOnly hexec
    exact hanswered hev hp hr
  · exact hanswered hev hp (State.respond_answersIssuerOnly _ _)

/-- Settles O8, by induction on the number of steps, each of which uses up one event. -/
theorem interleavingKeepsEachAgentsOrder : Obligations.InterleavingKeepsEachAgentsOrder := by
  intro n s t hrun
  suffices h : UsesEvents n s t from ⟨h.events, h.params, h.pending⟩
  induction n generalizing s with
  | zero =>
    obtain rfl : s = t := Host.Outcome.next.inj hrun
    exact UsesEvents.refl s
  | succ n ih =>
    obtain ⟨u, hstep, hrest⟩ := step_of_run_succ hrun
    rw [Nat.add_comm]
    exact (usesEvents_of_step hstep).trans (ih u hrest)

/-! ### A host program -/

theorem op_encode (i : Instr) : CmdWord.op (encode i) = i.opcode := by
  rw [CmdWord.op, encode, BitVec.extractLsb'_append_eq_left]

theorem arg_encode (i : Instr) : CmdWord.arg (encode i) = i.argByte := by
  rw [CmdWord.arg, encode, BitVec.extractLsb'_append_eq_right]

theorem decode_encode (i : Instr) : decode (encode i) = .ok i := by
  rw [decode, op_encode, arg_encode]
  cases i with
  | frmTick rxAvail cmdSent => cases rxAvail <;> cases cmdSent <;> rfl
  | frmStatus rxAvail cmdSent => cases rxAvail <;> cases cmdSent <;> rfl
  | _ => rfl

/-- The words of `is` run by steps of the host alone. With no word to run no step sets the issuer, so the
host has to stand there already. -/
theorem run_hostProgram (is : List Instr) {s : State} {more : List CmdWord} {rest : List Event}
    (hissuer : is ≠ [] ∨ s.issuer = .host) (hp : s.host.pending = is.map encode ++ more)
    (hev : s.events = List.replicate is.length (.op .host) ++ rest) :
    Host.Core.run core is.length s = runOps is (s.taken .host rest more) := by
  induction is generalizing s with
  | nil =>
    have hhost : s.issuer = .host := hissuer.resolve_left (fun hne => hne rfl)
    obtain rfl : s.events = rest := hev
    obtain rfl : s.host.pending = more := hp
    exact congrArg Host.Outcome.next (State.taken_self hhost).symm
  | cons i is ih =>
    have hstep : step s = exec i (s.taken .host (List.replicate is.length (.op .host) ++ rest)
        (is.map encode ++ more)) :=
      step_eq_exec_of_decode_ok hev hp (decode_encode i)
    obtain ⟨u, hu⟩ : ∃ u, step s = .next u := ⟨_, hstep.trans (exec_eq i _)⟩
    have hexec := hstep.symm.trans hu
    obtain ⟨r, hr⟩ := exec_answersIssuerOnly hexec
    obtain ⟨huissuer, huev, huport, _⟩ := hr.of_taken
    have hlater : exec i (s.taken .host rest more) = .next (u.taken .host rest more) := by
      have htaken := exec_taken_of_exec (a := .host) rest more rfl hexec
      rwa [State.taken_taken] at htaken
    have hrest : Host.Core.run core is.length u = runOps is (u.taken .host rest more) :=
      ih (.inr huissuer) (congrArg Port.pending huport) huev
    exact (run_succ_of_step hu _).trans (hrest.trans (runOps_cons_of_next hlater is).symm)

/-- Settles O10, by induction on the operations: the words and turns still to come are read by none of
them. -/
theorem hostProgramRunsInOrder : Obligations.HostProgramRunsInOrder :=
  fun is _ _ _ hne hp hev => run_hostProgram is (.inl hne) hp hev

/-! ### The two units -/

section
variable {i : Instr} {s u : State}

/-- A checksum operation writes `CRC` alone. -/
theorem State.sameFramer_afterOp_of_isCrc (h : i.isCrc = true) : SameFramer s (s.afterOp i) := by
  cases i with
  | crcInit | crcUpdate b | crcRead => exact ⟨rfl, rfl, rfl, rfl⟩
  | _ => cases h

/-- A framer operation leaves `CRC`. -/
theorem State.afterOp_crc_of_isFramer (h : i.isFramer = true) : (s.afterOp i).crc = s.crc := by
  by_contra hne
  obtain rfl | ⟨b, rfl⟩ | rfl := State.writer_of_afterOp_crc_ne hne <;> cases h

/-- A checksum operation reads `CRC` alone. -/
theorem State.crcOp_congr (h : i.isCrc = true) (hcrc : s.crc = u.crc) :
    (s.afterOp i).crc = (u.afterOp i).crc ∧ s.opResponse i = u.opResponse i := by
  cases i with
  | crcInit => exact ⟨rfl, rfl⟩
  | crcUpdate b => exact ⟨congrArg (crcStep · b) hcrc, rfl⟩
  | crcRead => exact ⟨hcrc, by rw [State.opResponse, State.opResponse, hcrc]⟩
  | _ => cases h

theorem State.statusResponse_congr (h : SameFramer s u) (rxAvail cmdSent : Bool) :
    s.statusResponse rxAvail cmdSent = u.statusResponse rxAvail cmdSent := by
  obtain ⟨hraw, hacc, hcfq, hrxovf⟩ := h
  simp only [State.statusResponse, State.sniff, hraw, hacc, hcfq, hrxovf]

/-- A framer operation reads the framer's elements and the parameters alone. -/
theorem State.framerOp_congr (h : i.isFramer = true) (hsame : SameFramer s u)
    (hparams : s.params = u.params) :
    SameFramer (s.afterOp i) (u.afterOp i) ∧ s.opResponse i = u.opResponse i := by
  obtain ⟨hraw, hacc, hcfq, hrxovf⟩ := id hsame
  cases i with
  | frmRxbyte b =>
    refine ⟨⟨?_, hacc, hcfq, ?_⟩, rfl⟩ <;> simp only [State.afterOp, hraw, hrxovf, hparams]
  | frmTick rxAvail cmdSent =>
    have htick := State.sameFramer_tick hsame hparams
    exact ⟨htick, State.statusResponse_congr htick rxAvail cmdSent⟩
  | frmPop =>
    refine ⟨⟨hraw, hacc, congrArg List.tail hcfq, hrxovf⟩, ?_⟩
    simp only [State.opResponse, hcfq]
  | frmStatus rxAvail cmdSent => exact ⟨hsame, State.statusResponse_congr hsame rxAvail cmdSent⟩
  | _ => cases h

end

/-- Settles O39: each of the two operations finds the elements it reads as they were before the other. -/
theorem crcAndFramerOperationsCommute : Obligations.CrcAndFramerOperationsCommute := by
  intro i j s t1 t2 u1 u2 hi hj ht1 ht2 hu1 hu2
  obtain rfl := eq_respond_of_exec ht1
  obtain rfl := eq_respond_of_exec ht2
  obtain rfl := eq_respond_of_exec hu1
  obtain rfl := eq_respond_of_exec hu2
  simp only [State.answer_respond, State.respond_crc, State.respond_raw, State.respond_acc,
    State.respond_cfq, State.respond_rxovf, SameBlock]
  set t := (s.afterOp i).respond (s.opResponse i)
  set u := (s.afterOp j).respond (s.opResponse j)
  have hst : SameFramer s t := State.sameFramer_afterOp_of_isCrc hi
  have hsu : s.crc = u.crc := (State.afterOp_crc_of_isFramer hj).symm
  obtain ⟨hframer, hanswerj⟩ := State.framerOp_congr hj hst (State.afterOp_params s i).symm
  obtain ⟨hcrc, hansweri⟩ := State.crcOp_congr hi hsu
  have htcrc : (t.afterOp j).crc = t.crc := State.afterOp_crc_of_isFramer hj
  obtain ⟨huraw, huacc, hucfq, hurxovf⟩ : SameFramer u (u.afterOp i) :=
    State.sameFramer_afterOp_of_isCrc hi
  obtain ⟨hraw, hacc, hcfq, hrxovf⟩ := hframer
  exact ⟨⟨htcrc.trans hcrc, hraw.symm.trans huraw, hacc.symm.trans huacc, hcfq.symm.trans hucfq,
    hrxovf.symm.trans hurxovf⟩, congrArg some hansweri, congrArg some hanswerj.symm⟩

/-! ### The same operation twice -/

/-- An operation that finds nothing to change and the answer already given leaves the state as it is. -/
theorem exec_respond_self {i : Instr} {s : State} {r : Response}
    (hkept : (s.respond r).afterOp i = s.respond r) (hanswer : (s.respond r).opResponse i = r) :
    exec i (s.respond r) = .next (s.respond r) := by
  rw [exec_eq, hkept, hanswer, State.respond_respond]

/-- Settles O40: the reads write no element, a tick leaves nothing for a second one, and a pop answers the
head of the queue and leaves the tail. -/
theorem readsAreIdempotentAndPopIsNot : Obligations.ReadsAreIdempotentAndPopIsNot := by
  refine ⟨fun i s t hi h => ?read, fun rx cs s t h => ?tick, fun f rest s t u hq ht hu => ?pop⟩
  case read =>
    obtain rfl := eq_respond_of_exec h
    obtain rfl | ⟨rx, cs, rfl⟩ := hi <;>
      exact ⟨⟨rfl, rfl, rfl, rfl, rfl⟩, exec_respond_self rfl rfl⟩
  case tick =>
    obtain rfl := eq_respond_of_exec h
    have hkept : ∀ r, (s.tick.respond r).tick = s.tick.respond r :=
      fun r => State.tick_of_empty s.tick_raw s.tick_acc
    exact exec_respond_self (hkept _) (by simp only [State.opResponse, State.afterOp, hkept]; rfl)
  case pop =>
    obtain rfl := eq_respond_of_exec ht
    obtain rfl := eq_respond_of_exec hu
    have htail : (s.afterOp .frmPop).cfq = rest := congrArg List.tail hq
    refine ⟨?_, htail, ?_⟩
    · rw [State.answer_respond, State.opResponse, hq]
    · rw [State.answer_respond, State.opResponse, State.respond_cfq, htail]
      cases rest <;> rfl

end Sys2Proof.Machine
end

section
/-! The command word and the decoder (spec/30_encoding.md R81 to R86): a word is its operation code and
its argument, which arguments each format takes, the words that decode are the encoder's words, the rows
of the opcode map, and the reserved words with their number. -/

namespace Sys2Proof

open Machine

/-! ### The two fields of a command word (R81) -/

theorem CmdWord.op_append (op : BitVec 4) (arg : Byte) : CmdWord.op (op ++ arg) = op :=
  BitVec.extractLsb'_append_eq_left

theorem CmdWord.arg_append (op : BitVec 4) (arg : Byte) : CmdWord.arg (op ++ arg) = arg :=
  BitVec.extractLsb'_append_eq_right

theorem CmdWord.op_append_arg (w : CmdWord) : CmdWord.op w ++ CmdWord.arg w = w :=
  BitVec.extractLsb'_append_extractLsb' (w := 4) (len := 8)

/-- A word is known by its two fields. -/
theorem CmdWord.eq_append_iff {w : CmdWord} {op : BitVec 4} {arg : Byte} :
    w = op ++ arg ↔ CmdWord.op w = op ∧ CmdWord.arg w = arg := by
  constructor
  · rintro rfl
    exact ⟨CmdWord.op_append op arg, CmdWord.arg_append op arg⟩
  · rintro ⟨rfl, rfl⟩
    exact (CmdWord.op_append_arg w).symm

theorem CmdWord.toNat_op (w : CmdWord) : (CmdWord.op w).toNat = w.toNat / 256 := by
  have hlt := w.isLt
  simp only [CmdWord.op, BitVec.extractLsb'_toNat, Nat.shiftRight_eq_div_pow]
  omega

theorem CmdWord.toNat_arg (w : CmdWord) : (CmdWord.arg w).toNat = w.toNat % 256 := by
  simp [CmdWord.arg, BitVec.extractLsb'_toNat]

/-! ### The argument of each format (R81, R82) -/

/-- The bits of the argument that a format fixes to 0 (R81). -/
def Format.argMask : Format → Byte
  | .N => 0xFF#8
  | .B => 0x00#8
  | .F => 0xFC#8

theorem and_argMask_N_eq_zero_iff {arg : Byte} : arg &&& Format.N.argMask = 0#8 ↔ arg = 0#8 := by
  rw [Format.argMask, show (0xFF#8) = BitVec.allOnes 8 from rfl, BitVec.and_allOnes]

/-- The two flags of an argument with its upper six bits 0 give the argument back (R82). -/
theorem flagArg_getLsbD {arg : Byte} (h : arg.extractLsb' 2 6 = 0#6) :
    flagArg (arg.getLsbD 0) (arg.getLsbD 1) = arg := by
  revert arg
  decide

theorem extractLsb'_flagArg (rxAvail cmdSent : Bool) :
    (flagArg rxAvail cmdSent).extractLsb' 2 6 = 0#6 := by
  cases rxAvail <;> cases cmdSent <;> rfl

/-- Masking the upper six bits and cutting them out are the same test. -/
theorem and_argMask_F_eq_zero_iff {arg : Byte} :
    arg &&& Format.F.argMask = 0#8 ↔ arg.extractLsb' 2 6 = 0#6 := by
  revert arg
  decide

/-! ### When each format decodes (R86) -/

section
variable {i j : Instr} {arg : Byte}

theorem decodeN_eq_ok_iff : decodeN i arg = .ok j ↔ arg = 0#8 ∧ i = j := by
  unfold decodeN
  split <;> simp [*]

theorem decodeB_eq_ok_iff {mk : Byte → Instr} : decodeB mk arg = .ok j ↔ mk arg = j := by
  simp [decodeB]

theorem decodeF_eq_ok_iff {mk : Bool → Bool → Instr} :
    decodeF mk arg = .ok j ↔
      arg.extractLsb' 2 6 = 0#6 ∧ mk (arg.getLsbD 0) (arg.getLsbD 1) = j := by
  unfold decodeF
  split <;> simp [*]

theorem decodeN_isError_iff : (∃ e, decodeN i arg = .error e) ↔ arg.toNat ≠ 0 := by
  have hzero : arg = 0#8 ↔ arg.toNat = 0 := BitVec.toNat_inj.symm
  unfold decodeN
  split <;> simp_all

theorem decodeB_isError_iff {mk : Byte → Instr} : ¬ ∃ e, decodeB mk arg = .error e := by
  simp [decodeB]

theorem decodeF_isError_iff {mk : Bool → Bool → Instr} :
    (∃ e, decodeF mk arg = .error e) ↔ arg.toNat / 4 ≠ 0 := by
  have hlt := arg.isLt
  have hzero : arg.extractLsb' 2 6 = 0#6 ↔ arg.toNat / 4 = 0 := by
    rw [← BitVec.toNat_inj, BitVec.extractLsb'_toNat, Nat.shiftRight_eq_div_pow]
    simp only [BitVec.toNat_ofNat]
    omega
  unfold decodeF
  split <;> simp_all

end

/-! ### The words that decode (R81, R82, R84) -/

/-- A word that decodes has the operation code and the argument of its operation. -/
theorem fields_of_decode {w : CmdWord} {i : Instr} (h : decode w = .ok i) :
    CmdWord.op w = i.opcode ∧ CmdWord.arg w = i.argByte := by
  unfold decode at h
  split at h
  case h_1 hop | h_3 hop | h_6 hop | h_8 hop =>
    obtain ⟨harg, rfl⟩ := decodeN_eq_ok_iff.mp h
    exact ⟨BitVec.eq_of_toNat_eq hop, harg⟩
  case h_2 hop | h_4 hop =>
    obtain rfl := decodeB_eq_ok_iff.mp h
    exact ⟨BitVec.eq_of_toNat_eq hop, rfl⟩
  case h_5 hop | h_7 hop =>
    obtain ⟨hupper, rfl⟩ := decodeF_eq_ok_iff.mp h
    exact ⟨BitVec.eq_of_toNat_eq hop, (flagArg_getLsbD hupper).symm⟩
  case h_9 => cases h

theorem decode_eq_ok_iff {w : CmdWord} {i : Instr} : decode w = .ok i ↔ w = encode i := by
  constructor
  · exact fun h => CmdWord.eq_append_iff.mpr (fields_of_decode h)
  · rintro rfl
    exact decode_encode i

theorem encode_injective : Function.Injective encode := fun i _ h =>
  Except.ok.inj ((decode_encode i).symm.trans (decode_eq_ok_iff.mpr h))

/-- Settles O3: each written word is the encoder's word. -/
theorem writtenWordsDecode : Obligations.WrittenWordsDecode :=
  ⟨decode_encode .crcInit, decode_encode (.crcUpdate 0x31#8), decode_encode (.crcUpdate 0xFF#8),
    decode_encode .crcRead, decode_encode (.frmRxbyte 0xA0#8), decode_encode (.frmTick true false),
    decode_encode (.frmTick false true), decode_encode .frmPop,
    decode_encode (.frmStatus true false), decode_encode .blkReset⟩

/-- Settles O1: each of the decoder's branches that answers an operation gives back the two fields of that
operation's word. -/
theorem decodeEncodeAgree : Obligations.DecodeEncodeAgree :=
  ⟨fun i _ => decode_encode i, fun _ _ h => (decode_eq_ok_iff.mp h).symm⟩

/-! ### The rows of the opcode map (R84) -/

/-- The format of an operation (R81). -/
def Instr.format : Instr → Format
  | .crcInit | .crcRead | .frmPop | .blkReset => .N
  | .crcUpdate _ | .frmRxbyte _ => .B
  | .frmTick _ _ | .frmStatus _ _ => .F

/-- The row of the opcode map an operation belongs to: its operation code is fixed, and of its argument
what its format fixes to 0. -/
def Instr.row (i : Instr) : OpRow :=
  ⟨i.mnemonic, i.format, i.opcode ++ 0#8, 0xF#4 ++ i.format.argMask⟩

theorem opcodeTable_eq_map_row :
    opcodeTable = [.crcInit, .crcUpdate 0#8, .crcRead, .frmRxbyte 0#8, .frmTick false false,
      .frmPop, .frmStatus false false, .blkReset].map Instr.row := by
  decide

theorem Instr.row_mem_opcodeTable (i : Instr) : i.row ∈ opcodeTable := by
  rw [opcodeTable_eq_map_row]
  cases i <;> simp [Instr.row, Instr.mnemonic, Instr.format, Instr.opcode]

theorem exists_row_of_mem_opcodeTable {r : OpRow} (h : r ∈ opcodeTable) :
    ∃ i : Instr, i.row = r := by
  rw [opcodeTable_eq_map_row] at h
  obtain ⟨i, -, hi⟩ := List.mem_map.mp h
  exact ⟨i, hi⟩

theorem opcodeTable_mnemonics_nodup : (opcodeTable.map OpRow.mnemonic).Nodup := by
  decide

/-- A mnemonic stands in one row. -/
theorem row_eq_of_mnemonic_eq {r : OpRow} (hr : r ∈ opcodeTable) {i : Instr}
    (h : i.mnemonic = r.mnemonic) : i.row = r :=
  List.inj_on_of_nodup_map (f := OpRow.mnemonic) opcodeTable_mnemonics_nodup
    i.row_mem_opcodeTable hr h

/-- A word selects an operation's row when its operation code is the operation's and its argument has
the bits 0 that the format fixes. -/
theorem and_row_mask_eq_iff {w : CmdWord} {i : Instr} :
    w &&& i.row.mask = i.row.matchWord ↔
      CmdWord.op w = i.opcode ∧ CmdWord.arg w &&& i.format.argMask = 0#8 := by
  have hmask : w &&& i.row.mask = CmdWord.op w ++ (CmdWord.arg w &&& i.format.argMask) := by
    calc w &&& i.row.mask
        = (CmdWord.op w ++ CmdWord.arg w) &&& (BitVec.allOnes 4 ++ i.format.argMask) := by
          rw [CmdWord.op_append_arg]; rfl
      _ = _ := by rw [BitVec.and_append, BitVec.and_allOnes]
  rw [hmask, Instr.row, CmdWord.eq_append_iff, CmdWord.op_append, CmdWord.arg_append]

theorem Instr.argByte_and_argMask (i : Instr) : i.argByte &&& i.format.argMask = 0#8 := by
  cases i with
  | crcUpdate b | frmRxbyte b => exact BitVec.and_zero
  | frmTick rxAvail cmdSent | frmStatus rxAvail cmdSent =>
    exact and_argMask_F_eq_zero_iff.mpr (extractLsb'_flagArg rxAvail cmdSent)
  | _ => rfl

/-- Every argument with the fixed bits 0 is that of an operation of the row. -/
theorem Instr.exists_argByte_eq (i : Instr) {arg : Byte} (h : arg &&& i.format.argMask = 0#8) :
    ∃ j : Instr, j.mnemonic = i.mnemonic ∧ j.opcode = i.opcode ∧ j.argByte = arg := by
  cases i with
  | crcUpdate b => exact ⟨.crcUpdate arg, rfl, rfl, rfl⟩
  | frmRxbyte b => exact ⟨.frmRxbyte arg, rfl, rfl, rfl⟩
  | frmTick rxAvail cmdSent =>
    exact ⟨.frmTick (arg.getLsbD 0) (arg.getLsbD 1), rfl, rfl,
      flagArg_getLsbD (and_argMask_F_eq_zero_iff.mp h)⟩
  | frmStatus rxAvail cmdSent =>
    exact ⟨.frmStatus (arg.getLsbD 0) (arg.getLsbD 1), rfl, rfl,
      flagArg_getLsbD (and_argMask_F_eq_zero_iff.mp h)⟩
  | _ => exact ⟨_, rfl, rfl, (and_argMask_N_eq_zero_iff.mp h).symm⟩

theorem selects_iff_decode {r : OpRow} (hr : r ∈ opcodeTable) {w : CmdWord} :
    w &&& r.mask = r.matchWord ↔ ∃ i, decode w = .ok i ∧ i.mnemonic = r.mnemonic := by
  constructor
  · intro hsel
    obtain ⟨j, rfl⟩ := exists_row_of_mem_opcodeTable hr
    obtain ⟨hop, harg⟩ := and_row_mask_eq_iff.mp hsel
    obtain ⟨i, hname, hopcode, hargByte⟩ := j.exists_argByte_eq harg
    have hw : w = encode i :=
      CmdWord.eq_append_iff.mpr ⟨hop.trans hopcode.symm, hargByte.symm⟩
    exact ⟨i, decode_eq_ok_iff.mpr hw, hname⟩
  · rintro ⟨i, hd, hname⟩
    obtain ⟨hop, harg⟩ := fields_of_decode hd
    obtain rfl := row_eq_of_mnemonic_eq hr hname
    exact and_row_mask_eq_iff.mpr ⟨hop, harg ▸ i.argByte_and_argMask⟩

/-- Settles O2: the decoder reads one operation from a word, and no two rows have its mnemonic. -/
theorem decodeSelectsOpcodeRow : Obligations.DecodeSelectsOpcodeRow := by
  refine ⟨fun r hr w => selects_iff_decode hr, ?_⟩
  refine (List.pairwise_map.mp opcodeTable_mnemonics_nodup).imp_of_mem ?_
  rintro r q hr hq hne w ⟨hselr, hselq⟩
  obtain ⟨i, hi, hir⟩ := (selects_iff_decode hr).mp hselr
  obtain ⟨j, hj, hjq⟩ := (selects_iff_decode hq).mp hselq
  obtain rfl : i = j := Except.ok.inj (hi.symm.trans hj)
  exact hne (hir.symm.trans hjq)

/-! ### The reserved words (R86) -/

/-- The three cases of R86, read off the decoder's branches. -/
theorem decode_isError_iff (w : CmdWord) : (∃ e, decode w = .error e) ↔
    (w.toNat / 256 = 0 ∨ 9 ≤ w.toNat / 256) ∨
    (w.toNat / 256 ∈ [1, 3, 6, 8] ∧ w.toNat % 256 ≠ 0) ∨
    (w.toNat / 256 ∈ [5, 7] ∧ w.toNat % 256 / 4 ≠ 0) := by
  rw [← CmdWord.toNat_op, ← CmdWord.toNat_arg]
  unfold decode
  split
  case h_1 hop | h_3 hop | h_6 hop | h_8 hop => rw [decodeN_isError_iff]; simp [hop]
  case h_2 hop | h_4 hop => simp [hop, decodeB_isError_iff]
  case h_5 hop | h_7 hop => rw [decodeF_isError_iff]; simp [hop]
  case h_9 h1 h2 h3 h4 h5 h6 h7 h8 =>
    have hop : (CmdWord.op w).toNat = 0 ∨ 9 ≤ (CmdWord.op w).toNat := by
      simp only [imp_false] at h1 h2 h3 h4 h5 h6 h7 h8
      omega
    exact iff_of_true ⟨_, rfl⟩ (.inl hop)

/-- The operations of a format B row: one per byte. -/
def byteInstrs (mk : Byte → Instr) : List Instr :=
  (List.finRange 256).map (fun b => mk (BitVec.ofFin b))

/-- The operations of a format F row: one per pair of flags. -/
def flagInstrs (mk : Bool → Bool → Instr) : List Instr :=
  [mk false false, mk false true, mk true false, mk true true]

/-- Every operation with every operand, row by row. -/
def allInstrs : List Instr :=
  List.flatten [[.crcInit, .crcRead, .frmPop, .blkReset], byteInstrs .crcUpdate,
    byteInstrs .frmRxbyte, flagInstrs .frmTick, flagInstrs .frmStatus]

@[simp] theorem length_byteInstrs (mk : Byte → Instr) : (byteInstrs mk).length = 256 := by
  simp [byteInstrs]

@[simp] theorem mem_byteInstrs {mk : Byte → Instr} {i : Instr} :
    i ∈ byteInstrs mk ↔ ∃ b, mk b = i := by
  simp only [byteInstrs, List.mem_map, List.mem_finRange, true_and]
  exact ⟨fun ⟨b, hb⟩ => ⟨_, hb⟩, fun ⟨b, hb⟩ => ⟨b.toFin, hb⟩⟩

theorem nodup_byteInstrs {mk : Byte → Instr} (hmk : Function.Injective mk) :
    (byteInstrs mk).Nodup :=
  (List.nodup_finRange 256).map (fun _ _ h => BitVec.ofFin.inj (hmk h))

/-- `4*1 + 2*256 + 2*4`. -/
theorem length_allInstrs : allInstrs.length = 524 := by
  simp [allInstrs, flagInstrs]

theorem mem_allInstrs (i : Instr) : i ∈ allInstrs := by
  cases i with
  | frmTick rxAvail cmdSent | frmStatus rxAvail cmdSent =>
    cases rxAvail <;> cases cmdSent <;> simp [allInstrs, flagInstrs]
  | _ => simp [allInstrs]

theorem nodup_allInstrs : allInstrs.Nodup := by
  have hupdate := nodup_byteInstrs (mk := .crcUpdate) (fun _ _ => Instr.crcUpdate.inj)
  have hrxbyte := nodup_byteInstrs (mk := .frmRxbyte) (fun _ _ => Instr.frmRxbyte.inj)
  refine List.nodup_flatten.mpr ⟨?rows, ?disjoint⟩
  case rows => simp [flagInstrs, hupdate, hrxbyte]
  case disjoint => simp [flagInstrs, List.disjoint_left]

/-- Of the 12-bit numbers, each listed once, those that decode are the encoder's words. -/
theorem filter_decodes_perm {l : List Nat} (hl : l.Nodup) (hmem : ∀ n, n ∈ l ↔ n < 4096) :
    (l.filter (fun n => (decode (BitVec.ofNat 12 n)).toOption.isSome)).Perm
      (allInstrs.map (fun i => (encode i).toNat)) := by
  have hinj : Function.Injective (fun i => (encode i).toNat) :=
    fun _ _ h => encode_injective (BitVec.eq_of_toNat_eq h)
  refine (List.perm_ext_iff_of_nodup (hl.filter _) (nodup_allInstrs.map hinj)).mpr fun n => ?_
  simp only [List.mem_filter, hmem, List.mem_map, mem_allInstrs, true_and]
  constructor
  · rintro ⟨hn, hsome⟩
    cases hd : decode (BitVec.ofNat 12 n) with
    | ok i =>
      refine ⟨i, ?_⟩
      rw [← decode_eq_ok_iff.mp hd, BitVec.toNat_ofNat, Nat.mod_eq_of_lt hn]
    | error e => simp [hd, Except.toOption] at hsome
  · rintro ⟨i, rfl⟩
    rw [BitVec.ofNat_toNat, BitVec.setWidth_eq, decode_encode]
    exact ⟨(encode i).isLt, rfl⟩

theorem countP_decodes {l : List Nat} (hl : l.Nodup) (hmem : ∀ n, n ∈ l ↔ n < 4096) :
    l.countP (fun n => (decode (BitVec.ofNat 12 n)).toOption.isSome) = 524 := by
  rw [List.countP_eq_length_filter, (filter_decodes_perm hl hmem).length_eq, List.length_map,
    length_allInstrs]

theorem countP_isNone_of_countP_isSome {α β : Type} {f : α → Option β} {l : List α} {m n : Nat}
    (hsome : l.countP (fun a => (f a).isSome) = n) (hlen : l.length = m + n) :
    l.countP (fun a => (f a).isNone) = m := by
  have hsplit := List.length_eq_countP_add_countP (fun a => (f a).isNone) (l := l)
  simp only [Bool.not_eq_true, Option.isNone_eq_false_iff, Bool.decide_eq_true] at hsplit
  omega

/-- Settles O4: the cases of R86 are the decoder's failing branches; 524 words decode because there are
524 operations with their operands. -/
theorem reservedWordOnlyAnswersErrOp : Obligations.ReservedWordOnlyAnswersErrOp := by
  have hlegal := countP_decodes List.nodup_range (fun _ => List.mem_range)
  have hreserved := countP_isNone_of_countP_isSome (m := 3572) hlegal List.length_range
  refine ⟨decode_isError_iff, hreserved, hlegal, ?_⟩
  intro s a rest w ws e hev hp hd
  have hstep : step s = .next ((s.taken a rest ws).respond { code := .errOp }) :=
    step_eq_execReserved_of_decode_error hev hp hd
  obtain ⟨-, -, hport, hother⟩ := (State.respond_answersIssuerOnly (s.taken a rest ws) _).of_taken
  exact ⟨_, hstep, ⟨rfl, rfl, rfl, rfl, rfl⟩, rfl, hport, hother⟩

end Sys2Proof
end

section
/-! What each field of a response holds (spec/30_encoding.md R85, spec/10_state.md R28). -/

namespace Sys2Proof.Machine

/-! ### The fields of an operation's response -/

section
variable (s : State) (i : Instr)

theorem State.opResponse_code :
    (s.opResponse i).code = if i = .frmPop ∧ s.cfq = [] then .empty else .ok := by
  cases i with
  | frmPop => cases hq : s.cfq <;> simp [State.opResponse, hq]
  | _ => simp [State.opResponse, State.statusResponse, rspOk]

theorem State.opResponse_crc :
    (s.opResponse i).crc = if i = .crcRead then some s.crc else none := by
  cases i with
  | frmPop => cases hq : s.cfq <;> simp [State.opResponse, hq]
  | _ => simp [State.opResponse, State.statusResponse, rspOk]

theorem State.opResponse_frame :
    (s.opResponse i).frame = if i = .frmPop then s.cfq.head? else none := by
  cases i with
  | frmPop => cases hq : s.cfq <;> simp [State.opResponse, hq]
  | _ => simp [State.opResponse, State.statusResponse, rspOk]

end

/-- The operation asks for the status, with these two flags (R85). -/
def ReportsStatus (i : Instr) (rx cs : Bool) : Prop := i = .frmTick rx cs ∨ i = .frmStatus rx cs

/-- An operation that asks for the status is answered the status of the state it leaves. -/
theorem ReportsStatus.opResponse_eq {i : Instr} {rx cs : Bool} (h : ReportsStatus i rx cs)
    (s : State) :
    s.opResponse i = (s.afterOp i).statusResponse rx cs := by
  obtain rfl | rfl := h <;> rfl

/-- No other operation fills a field of the status. -/
theorem State.opResponse_status_none {i : Instr} (h : ¬ ∃ rx cs, ReportsStatus i rx cs)
    (s : State) :
    (s.opResponse i).sniff = none ∧ (s.opResponse i).rxovf = none ∧
      (s.opResponse i).count = none := by
  cases i with
  | frmTick rx cs => exact absurd ⟨rx, cs, .inl rfl⟩ h
  | frmStatus rx cs => exact absurd ⟨rx, cs, .inr rfl⟩ h
  | frmPop => cases hq : s.cfq <;> simp [State.opResponse, hq]
  | _ => exact ⟨rfl, rfl, rfl⟩

theorem State.opResponse_status_isSome_iff (s : State) (i : Instr) :
    ((s.opResponse i).sniff.isSome = true ↔ ∃ rx cs, ReportsStatus i rx cs) ∧
      ((s.opResponse i).rxovf.isSome = true ↔ ∃ rx cs, ReportsStatus i rx cs) ∧
      ((s.opResponse i).count.isSome = true ↔ ∃ rx cs, ReportsStatus i rx cs) := by
  by_cases hi : ∃ rx cs, ReportsStatus i rx cs
  · obtain ⟨rx, cs, hstatus⟩ := id hi
    rw [hstatus.opResponse_eq]
    exact ⟨iff_of_true rfl hi, iff_of_true rfl hi, iff_of_true rfl hi⟩
  · obtain ⟨hsniff, hrxovf, hcount⟩ := State.opResponse_status_none hi s
    rw [hsniff, hrxovf, hcount]
    exact ⟨iff_of_false nofun hi, iff_of_false nofun hi, iff_of_false nofun hi⟩

/-- The flag and the count an operation answers are those of the state it leaves. -/
theorem State.opResponse_status_values (s : State) (i : Instr) :
    (∀ x, (s.opResponse i).rxovf = some x → x = (s.afterOp i).rxovf) ∧
      (∀ n, (s.opResponse i).count = some n → n = (s.afterOp i).cfq.length) := by
  by_cases hi : ∃ rx cs, ReportsStatus i rx cs
  · obtain ⟨rx, cs, hstatus⟩ := hi
    rw [hstatus.opResponse_eq]
    exact ⟨fun _ h => (Option.some.inj h).symm, fun _ h => (Option.some.inj h).symm⟩
  · obtain ⟨-, hrxovf, hcount⟩ := State.opResponse_status_none hi s
    simp [hrxovf, hcount]

/-- The status, said of the elements themselves (R28). -/
theorem State.sniff_eq (s : State) (rx cs : Bool) :
    s.sniff rx cs = if s.cfq ≠ [] then .framePending
      else if s.raw ≠ [] ∨ s.acc ≠ [] ∨ rx = true ∨ cs = true then .busy else .idle := by
  simp only [State.sniff, List.length_pos_iff]

/-- Settles O38, field by field; the fields of the status by whether the operation asks for it. -/
theorem responseFieldsAreTheOperationsOwn : Obligations.ResponseFieldsAreTheOperationsOwn := by
  intro i s t h
  obtain rfl := eq_respond_of_exec h
  have hcode := State.opResponse_code s i
  have hframe := State.opResponse_frame s i
  obtain ⟨hsniff, hrxovf, hcount⟩ := State.opResponse_status_isSome_iff s i
  obtain ⟨hrxovfVal, hcountVal⟩ := State.opResponse_status_values s i
  refine ⟨s.opResponse i, State.answer_respond _ _, ?empty, ?errOp, State.opResponse_crc s i,
    hsniff, hrxovf, hcount, ?status, hrxovfVal, hcountVal, ?filled, ?head⟩
  case empty => rw [hcode]; split <;> simp [*]
  case errOp => rw [hcode]; split <;> simp
  case status =>
    intro rx cs x hi hx
    rw [ReportsStatus.opResponse_eq hi] at hx
    exact (Option.some.inj hx).symm.trans (State.sniff_eq _ rx cs)
  case filled =>
    rw [hcode, hframe]
    by_cases hi : i = .frmPop <;> cases hq : s.cfq <;> simp [hi]
  case head =>
    intro f hf
    rw [hframe] at hf
    split at hf
    · exact hf
    · cases hf

end Sys2Proof.Machine
end

section
/-! The algebra of the checksum (spec/40_crc_ops.md R102, R103, R107 to R110): a turn, the step and the fold
are linear over XOR and injective in the register; the other forms of the step, the effect of a changed
byte and the residue follow from these two facts. -/

namespace Sys2Proof.Machine

/-! ### One turn -/

/-- What a turn XORs in for the bit that leaves the register (R101). -/
def crcFeedback (b : Bool) : Word := if b then Config.crcPoly else 0#16

theorem crcFeedback_xor (a b : Bool) : crcFeedback (a ^^ b) = crcFeedback a ^^^ crcFeedback b := by
  cases a <;> cases b <;> decide

theorem crcTurn_eq (c : Word) : crcTurn c = (c >>> 1) ^^^ crcFeedback (c.getLsbD 0) := by
  unfold crcTurn crcFeedback
  split <;> simp

theorem crcTurn_xor (c d : Word) : crcTurn (c ^^^ d) = crcTurn c ^^^ crcTurn d := by
  simp only [crcTurn_eq, BitVec.getLsbD_xor, crcFeedback_xor, BitVec.ushiftRight_xor_distrib]
  ac_rfl

/-- The bit a turn shifts out stands in its result's top bit: the feedback constant has bit 15 set. -/
theorem getLsbD_crcTurn_top (c : Word) : (crcTurn c).getLsbD 15 = c.getLsbD 0 := by
  have hfeedback : ∀ b, (crcFeedback b).getLsbD 15 = b := by decide
  rw [crcTurn_eq, BitVec.getLsbD_xor, hfeedback, BitVec.getLsbD_ushiftRight,
    BitVec.getLsbD_of_ge c (1 + 15) (by decide), Bool.false_xor]

/-- Shifting right and back loses bit 0 alone. -/
theorem shiftLeft_ushiftRight_or_bit (c : Word) :
    (c >>> 1) <<< 1 ||| (if c.getLsbD 0 then 1#16 else 0#16) = c := by
  apply BitVec.eq_of_getLsbD_eq
  intro i hi
  cases i with
  | zero => cases hbit : c.getLsbD 0 <;> simp_all
  | succ i => cases hbit : c.getLsbD 0 <;> simp [hi, Nat.add_comm 1 i]

/-- R108: the inverse of a turn. -/
theorem crcTurnInv_crcTurn (c : Word) : crcTurnInv (crcTurn c) = c := by
  have hback := shiftLeft_ushiftRight_or_bit c
  unfold crcTurnInv
  rw [getLsbD_crcTurn_top, crcTurn_eq]
  cases hbit : c.getLsbD 0 <;> rw [hbit] at hback
  case true => simpa [crcFeedback, BitVec.xor_assoc] using hback
  case false => simpa [crcFeedback] using hback

theorem crcTurn_injective : Function.Injective crcTurn :=
  Function.LeftInverse.injective crcTurnInv_crcTurn

/-! ### Several turns -/

theorem crcTurns_eq_iterate (n : Nat) (c : Word) : crcTurns n c = crcTurn^[n] c := by
  induction n generalizing c with
  | zero => rfl
  | succ n ih => exact ih (crcTurn c)

theorem crcTurns_xor (n : Nat) (c d : Word) :
    crcTurns n (c ^^^ d) = crcTurns n c ^^^ crcTurns n d := by
  induction n generalizing c d with
  | zero => rfl
  | succ n ih => simp only [crcTurns, crcTurn_xor, ih]

theorem crcTurns_injective (n : Nat) : Function.Injective (crcTurns n) := by
  rw [funext (crcTurns_eq_iterate n)]
  exact crcTurn_injective.iterate n

/-- While only zero bits leave the register, turns are shifts. -/
theorem crcTurns_of_low_bits_zero (n : Nat) {c : Word} (h : ∀ i < n, c.getLsbD i = false) :
    crcTurns n c = c >>> n := by
  induction n generalizing c with
  | zero => simp [crcTurns]
  | succ n ih =>
    have hturn : crcTurn c = c >>> 1 := by rw [crcTurn, h 0 n.succ_pos]; rfl
    have hlow : ∀ i < n, (c >>> 1).getLsbD i = false := fun i hi => by
      rw [BitVec.getLsbD_ushiftRight]
      exact h (1 + i) (by omega)
    rw [crcTurns, hturn, ih hlow, ← BitVec.shiftRight_add, Nat.add_comm]

/-! ### The step -/

theorem zext16_xor (a b : Byte) : zext16 (a ^^^ b) = zext16 a ^^^ zext16 b := BitVec.setWidth_xor

@[simp] theorem zext16_zero : zext16 0x00#8 = 0x0000#16 := rfl

theorem zext16_injective : Function.Injective zext16 := fun a b h => by
  simpa [zext16] using congrArg (BitVec.setWidth 8) h

@[simp] theorem crcStep_zero_zero : crcStep 0x0000#16 0x00#8 = 0x0000#16 := by decide

/-- R107: linear in the register and the byte together. -/
theorem crcStep_xor (c d : Word) (a b : Byte) :
    crcStep (c ^^^ d) (a ^^^ b) = crcStep c a ^^^ crcStep d b := by
  simp only [crcStep, ← crcTurns_xor, zext16_xor]
  ac_rfl

/-- R101: the step depends on the byte only through the XOR into the register. -/
theorem crcStep_eq_crcStep_zero (c : Word) (b : Byte) :
    crcStep c b = crcStep (c ^^^ zext16 b) 0x00#8 := by
  simp [crcStep]

theorem crcStep_injective_register (b : Byte) : Function.Injective (crcStep · b) :=
  fun _ _ h => (BitVec.xor_left_inj _).1 (crcTurns_injective 8 h)

theorem crcStep_injective_byte (c : Word) : Function.Injective (crcStep c) :=
  fun _ _ h => zext16_injective ((BitVec.xor_right_inj _).1 (crcTurns_injective 8 h))

/-- Eight turns of a register whose low byte has been cancelled move the high byte down. -/
theorem crcTurns_eight_xor_loByte (c : Word) :
    crcTurns 8 (c ^^^ zext16 (loByte c)) = c >>> 8 := by
  have hlow : ∀ i < 8, (c ^^^ zext16 (loByte c)).getLsbD i = false := fun i hi => by
    simp [zext16, loByte, hi, Nat.lt_trans hi (by decide : 8 < 16)]
  have hzext : zext16 (loByte c) >>> 8 = 0#16 := by
    apply BitVec.eq_of_getLsbD_eq
    simp [zext16]
  rw [crcTurns_of_low_bits_zero 8 hlow, BitVec.ushiftRight_xor_distrib, hzext, BitVec.xor_zero]

/-- R103: the high byte only moves down; the low byte and the input byte select the table's entry. -/
theorem crcStep_eq_table (c : Word) (b : Byte) :
    crcStep c b = (c >>> 8) ^^^ crcStep 0x0000#16 (loByte c ^^^ b) := by
  have hsplit : c ^^^ zext16 b =
      (c ^^^ zext16 (loByte c)) ^^^ (0x0000#16 ^^^ zext16 (loByte c ^^^ b)) := by
    rw [BitVec.zero_xor, zext16_xor, BitVec.xor_assoc, ← BitVec.xor_assoc (zext16 (loByte c)),
      BitVec.xor_self, BitVec.zero_xor]
  rw [crcStep, hsplit, crcTurns_xor, crcTurns_eight_xor_loByte, ← crcStep]

/-- The nibble form's contribution of the mixed byte is the table's entry: 256 of them (R102). -/
theorem crcStepNibble_zero_eq (t : Byte) : crcStepNibble 0x0000#16 t = crcStep 0x0000#16 t := by
  revert t
  decide +kernel

/-- R102: the nibble form splits off the high byte as the table form does. -/
theorem crcStepNibble_eq_table (c : Word) (b : Byte) :
    crcStepNibble c b = (c >>> 8) ^^^ crcStepNibble 0x0000#16 (loByte c ^^^ b) := by
  have hlo : loByte 0x0000#16 = 0x00#8 := rfl
  simp only [crcStepNibble, hlo, BitVec.xor_zero, BitVec.zero_ushiftRight, BitVec.zero_xor,
    BitVec.xor_comm b, BitVec.xor_assoc]

/-- Settles O16, by splitting off the high byte in both forms and comparing the 256 entries left. -/
theorem nibbleFormEqualsCrcStep : Obligations.NibbleFormEqualsCrcStep := by
  refine ⟨fun c b => ?_, by decide, by decide⟩
  rw [crcStepNibble_eq_table, crcStepNibble_zero_eq, ← crcStep_eq_table]

/-- Settles O17, by linearity: the register is its high byte in place XOR its low byte. -/
theorem tableFormEqualsCrcStep : Obligations.TableFormEqualsCrcStep :=
  ⟨crcStep_eq_table, by decide, by decide, by decide, by decide, by decide, by decide⟩

/-! ### The fold -/

/-- R107: linear in the register and the sequence together. -/
theorem crcFold_xor {s e : List Byte} (h : s.length = e.length) (c d : Word) :
    crcFold (c ^^^ d) (xorBytes s e) = crcFold c s ^^^ crcFold d e := by
  induction s generalizing e c d with
  | nil =>
    obtain rfl := List.length_eq_zero_iff.1 h.symm
    rfl
  | cons a s ih =>
    match e with
    | [] => cases h
    | b :: e =>
      simp only [xorBytes, List.zipWith_cons_cons, crcFold_cons, crcStep_xor]
      exact ih (Nat.succ.inj h) _ _

/-- R108: different registers stay different under the same input. -/
theorem crcFold_injective (s : List Byte) : Function.Injective (crcFold · s) := by
  induction s with
  | nil => exact Function.injective_id
  | cons b s ih => exact ih.comp (crcStep_injective_register b)

/-- Zero bytes from the zero register leave it zero. -/
theorem crcFold_zero_replicate (n : Nat) : crcFold 0x0000#16 (List.replicate n 0x00#8) = 0x0000#16 := by
  induction n with
  | zero => rfl
  | succ n ih => rw [List.replicate_succ, crcFold_cons, crcStep_zero_zero, ih]

theorem xorBytes_self (s : List Byte) : xorBytes s s = List.replicate s.length 0x00#8 := by
  induction s with
  | nil => rfl
  | cons b s ih => exact congrArg₂ List.cons BitVec.xor_self ih

/-- Under the same input two registers' difference develops as it does under zero bytes (R107). -/
theorem crcFold_xor_crcFold (c d : Word) (s : List Byte) :
    crcFold c s ^^^ crcFold d s = crcFold (c ^^^ d) (List.replicate s.length 0x00#8) := by
  rw [← xorBytes_self, crcFold_xor rfl]

/-- Settles O19, by the step's linearity and induction on the sequences. -/
theorem checksumIsLinear : Obligations.ChecksumIsLinear := by
  refine ⟨crcStep_xor, crcStep_zero_zero, fun c d s e h => crcFold_xor h c d, fun s e h => ?_⟩
  rw [crc16, crc16, ← crcFold_xor h, BitVec.xor_zero]

/-! ### One changed byte -/

/-- Any change of one byte changes the fold (R109): the step is injective in the byte, and what follows is
injective in the register. -/
theorem crcFold_set_ne (c : Word) {s : List Byte} {i : Nat} {b : Byte} (hi : i < s.length)
    (hb : s[i]? ≠ some b) : crcFold c (s.set i b) ≠ crcFold c s := by
  intro heq
  rw [← List.set_getElem_self (as := s) hi, List.set_set, List.set_eq_take_append_cons_drop,
    List.set_eq_take_append_cons_drop, if_pos hi, if_pos hi, crcFold_append, crcFold_append,
    crcFold_cons, crcFold_cons] at heq
  have hbyte : b = s[i] := crcStep_injective_byte _ (crcFold_injective _ heq)
  exact hb (by rw [hbyte, List.getElem?_eq_getElem hi])

/-- A sequence that is zero but for one byte is a sequence of zero bytes with that byte set. -/
theorem eq_replicate_set_of_single_nonzero {e : List Byte} {i : Nat} {b : Byte} (hi : e[i]? = some b)
    (hzero : ∀ (j : Nat) (c : Byte), j ≠ i → e[j]? = some c → c = 0x00#8) :
    e = (List.replicate e.length 0x00#8).set i b := by
  apply List.ext_getElem (by simp)
  intro j hj _
  rw [List.getElem_set]
  split
  case isTrue h =>
    subst h
    exact Option.some.inj ((List.getElem?_eq_getElem hj).symm.trans hi)
  case isFalse h =>
    rw [List.getElem_replicate]
    exact hzero j _ (Ne.symm h) (List.getElem?_eq_getElem hj)

/-- Settles O20, by the inverse of a turn; the one non-zero byte is a change to a sequence of zero bytes. -/
theorem crcStepIsBijective : Obligations.CrcStepIsBijective := by
  refine ⟨fun b => Finite.injective_iff_bijective.1 (crcStep_injective_register b),
    crcTurnInv_crcTurn, fun _ _ s hne heq => hne (crcFold_injective s heq), ?_⟩
  intro e i b hi hb hzero
  have hlt : i < e.length := (List.getElem?_eq_some_iff.1 hi).1
  have hne : crcFold 0x0000#16 ((List.replicate e.length 0x00#8).set i b) ≠ _ :=
    crcFold_set_ne 0x0000#16 (by simpa using hlt) (by simpa [hlt] using hb.symm)
  rwa [← eq_replicate_set_of_single_nonzero hi hzero, crcFold_zero_replicate] at hne

/-! ### One inverted bit -/

theorem flipBit_xor (b : Byte) (k : Nat) : flipBit b k ^^^ b = 1#8 <<< k := by
  rw [flipBit, BitVec.xor_comm b, BitVec.xor_assoc, BitVec.xor_self, BitVec.xor_zero]

theorem flipBit_ne (b : Byte) {k : Nat} (hk : k < 8) : flipBit b k ≠ b := by
  have hmask : ∀ k < 8, 1#8 <<< k ≠ 0x00#8 := by decide
  rw [Ne, ← BitVec.xor_eq_zero_iff, flipBit_xor]
  exact hmask k hk

/-- The difference a changed byte makes: that of the two bytes, carried to the end by zero bytes (R109). -/
theorem crcFold_xor_of_byte (c : Word) (p : List Byte) (a b : Byte) (q : List Byte) :
    crcFold c (p ++ a :: q) ^^^ crcFold c (p ++ b :: q) =
      crcFold (crcStep 0x0000#16 (a ^^^ b)) (List.replicate q.length 0x00#8) := by
  rw [crcFold_append, crcFold_append, crcFold_cons, crcFold_cons, crcFold_xor_crcFold, ← crcStep_xor,
    BitVec.xor_self]

/-- R109: the difference an inverted bit makes depends on the bit and its distance from the end alone. -/
theorem crc16_flipAt_xor {s : List Byte} {i : Nat} (hi : i < s.length) (k : Nat) :
    crc16 (flipAt s i k) ^^^ crc16 s =
      crcFold (crcStep 0x0000#16 (1#8 <<< k)) (List.replicate (s.length - (i + 1)) 0x00#8) := by
  calc crc16 (flipAt s i k) ^^^ crc16 s
      = crc16 (s.take i ++ flipBit s[i] k :: s.drop (i + 1)) ^^^
          crc16 (s.take i ++ s[i] :: s.drop (i + 1)) := by
        rw [List.getElem_cons_drop, List.take_append_drop, flipAt, List.modify_eq_take_cons_drop hi]
    _ = _ := by rw [crc16, crc16, crcFold_xor_of_byte, flipBit_xor, List.length_drop]

theorem crc16_flipAt_ne {s : List Byte} {i k : Nat} (hi : i < s.length) (hk : k < 8) :
    crc16 (flipAt s i k) ≠ crc16 s := by
  rw [flipAt, List.modify_eq_set]
  apply crcFold_set_ne _ hi
  simpa [hi] using (flipBit_ne s[i] hk).symm

/-- Settles O21: a flip's difference is that of the bit alone carried to the end by zero bytes, and any
change of one byte survives the injective rest. -/
theorem singleBitFlipChangesChecksum : Obligations.SingleBitFlipChangesChecksum := by
  refine ⟨fun _ _ _ hi hk => crc16_flipAt_ne hi hk, fun _ _ _ => crcFold_set_ne _, ?distance,
    ?lastByte, [0x00#8, 0x00#8, 0x00#8], [0x01#8, 0x89#8, 0x11#8], rfl, by decide,
    by decide +kernel⟩
  case distance =>
    intro s s' i i' k hi hi' hdist
    have hrest : s.length - (i + 1) = s'.length - (i' + 1) := by omega
    rw [crc16_flipAt_xor hi, crc16_flipAt_xor hi', hrest]
  case lastByte =>
    intro s b
    have hlast : ∀ k, crc16 (s ++ [flipBit b k]) ^^^ crc16 (s ++ [b]) =
        crcStep 0x0000#16 (1#8 <<< k) := fun k => by
      rw [crc16, crc16, crcFold_xor_of_byte, flipBit_xor]
      rfl
    simp only [hlast]
    decide

/-! ### The residue -/

theorem zext16_hiByte (c : Word) : zext16 (hiByte c) = c >>> 8 := by
  have hlt := c.isLt
  apply BitVec.eq_of_toNat_eq
  simp only [zext16, hiByte, BitVec.toNat_setWidth, BitVec.extractLsb'_toNat, BitVec.toNat_ushiftRight,
    Nat.shiftRight_eq_div_pow]
  omega

/-- Feeding a register's own low byte only moves its high byte down. -/
theorem crcStep_loByte (c : Word) : crcStep c (loByte c) = zext16 (hiByte c) := by
  rw [crcStep_eq_table, BitVec.xor_self, crcStep_zero_zero, BitVec.xor_zero, zext16_hiByte]

/-- R110: a register fed its own two bytes, the low one first, is cancelled. -/
theorem crcFold_loByte_hiByte (c : Word) : crcFold c [loByte c, hiByte c] = 0x0000#16 := by
  rw [crcFold_cons, crcFold_cons, crcFold_nil, crcStep_loByte, crcStep, BitVec.xor_self]
  rfl

/-- Settles O22: the low byte first cancels the register; the stored order leaves 0x8FE5 after one message
and 0 after another. -/
theorem residueIsConstantOnlyLowByteFirst : Obligations.ResidueIsConstantOnlyLowByteFirst := by
  refine ⟨fun c s => ?_, ?_, by decide +kernel, by decide +kernel, by decide +kernel⟩
  · rw [crcFold_append, crcFold_loByte_hiByte]
  · rintro ⟨k, hk⟩
    have hframe : k = 0x8FE5#16 := (hk [0xA0#8, 0x00#8, 0x1C#8, 0x00#8]).symm.trans (by decide +kernel)
    have hones : k = 0x0000#16 := (hk [0xFF#8, 0xFF#8]).symm.trans (by decide +kernel)
    exact absurd (hframe.symm.trans hones) (by decide)

end Sys2Proof.Machine
end

section
/-! The checksum operations (spec/40_crc_ops.md R100, R101, R104, R105): what each one leaves and answers,
and what a message fed to the block and read back gives. -/

namespace Sys2Proof.Machine

/-! ### Runs that feed a message -/

theorem crcFold_concat (c : Word) (s : List Byte) (b : Byte) :
    crcFold c (s ++ [b]) = crcStep (crcFold c s) b := by
  rw [crcFold_append, crcFold_cons, crcFold_nil]

/-- A message may be fed in pieces (R105). -/
theorem crc16_append (s t : List Byte) : crc16 (s ++ t) = crcFold (crc16 s) t := by
  rw [crc16, crcFold_append, crc16]

/-- Handing over a response and writing the checksum register do not meet. -/
theorem State.respond_with_crc (s : State) (r : Response) (c : Word) :
    { s.respond r with crc := c } = { s with crc := c }.respond r := rfl

/-- Writing the checksum register is a change to the block's own state. -/
theorem State.respond_with_crc_sameAround (s : State) (r : Response) (c : Word) :
    SameAround s.issuer s ({ s with crc := c }.respond r) :=
  State.respond_sameAround { s with crc := c } r

/-- R105: feeding `bs` and reading answers the fold, and writes nothing but `CRC` and the response. -/
theorem runOps_updates_read (bs : List Byte) (s : State) :
    runOps (bs.map Instr.crcUpdate ++ [Instr.crcRead]) s =
      .next ({ s with crc := crcFold s.crc bs }.respond
        { code := .ok, crc := some (crcFold s.crc bs) }) := by
  induction bs generalizing s with
  | nil => rfl
  | cons b bs ih =>
    have hupdate : exec (.crcUpdate b) s =
      .next ({ s with crc := crcStep s.crc b }.respond rspOk) := rfl
    rw [List.map_cons, List.cons_append, runOps_cons_of_next hupdate, ih, State.respond_with_crc,
      State.respond_respond]
    rfl

/-- R105: the whole run, from CRC.INIT. -/
theorem runOps_init_updates_read (bs : List Byte) (s : State) :
    runOps (Instr.crcInit :: (bs.map Instr.crcUpdate ++ [Instr.crcRead])) s =
      .next ({ s with crc := crc16 bs }.respond { code := .ok, crc := some (crc16 bs) }) := by
  have hinit : exec .crcInit s = .next ({ s with crc := Config.crcInit }.respond rspOk) := rfl
  rw [runOps_cons_of_next hinit, runOps_updates_read, State.respond_with_crc, State.respond_respond]
  rfl

/-- Settles O18, by induction on the bytes fed; a read in the middle ends one run of updates and begins
another. -/
theorem readReturnsCrc16OfWhatWasFed : Obligations.ReadReturnsCrc16OfWhatWasFed := by
  refine ⟨rfl, crcFold_concat Config.crcInit, crcFold_nil, crcFold_concat, fun _ => rfl,
    crcFold_append, ?once, ?inPieces, ?examples⟩
  case examples => decide +kernel
  case once =>
    intro bs s
    exact ⟨_, runOps_init_updates_read bs s, rfl, State.answer_respond _ _, ⟨rfl, rfl, rfl, rfl⟩,
      State.respond_with_crc_sameAround s _ _⟩
  case inPieces =>
    intro bs cs s
    have hops : Instr.crcInit ::
          (bs.map Instr.crcUpdate ++ Instr.crcRead :: (cs.map Instr.crcUpdate ++ [Instr.crcRead])) =
        (Instr.crcInit :: (bs.map Instr.crcUpdate ++ [Instr.crcRead])) ++
          (cs.map Instr.crcUpdate ++ [Instr.crcRead]) := by simp
    rw [hops, runOps_append_of_next (runOps_init_updates_read bs s), runOps_updates_read]
    exact ⟨_, rfl, by rw [State.answer_respond, State.respond_crc, crc16_append]⟩

/-! ### One operation -/

theorem encode_crcUpdate (b : Byte) : encode (.crcUpdate b) = 0x200#12 ||| b.setWidth 12 := by
  rw [encode, Instr.opcode, Instr.argByte, BitVec.append_def, BitVec.setWidth'_eq]
  rfl

/-- The byte enters the low byte of the register alone (R101). -/
theorem hiByte_xor_zext16 (c : Word) (b : Byte) : hiByte (c ^^^ zext16 b) = hiByte c := by
  have hzext : hiByte (zext16 b) = 0x00#8 := by
    apply BitVec.eq_of_getLsbD_eq
    simp [hiByte, zext16]
  rw [hiByte, BitVec.extractLsb'_xor, ← hiByte, ← hiByte, hzext, BitVec.xor_zero]

/-- Settles O13: CRC.INIT overwrites the register and the response, so a second one finds both there. -/
theorem crcInitResult : Obligations.CrcInitResult := by
  refine ⟨by decide, fun s => rfl, fun s t h => ?_⟩
  obtain rfl := eq_respond_of_exec h
  exact congrArg Host.Outcome.next (State.respond_respond { s with crc := Config.crcInit } rspOk rspOk)

/-- Settles O14: the model's eight turns are the iterate of R101's turn. -/
theorem crcUpdateIsEightTurns : Obligations.CrcUpdateIsEightTurns := by
  refine ⟨encode_crcUpdate, fun b s => ?_, fun b c => hiByte_xor_zext16 c b,
    crcStep_eq_crcStep_zero, by decide, by decide, by decide, by decide, by decide, by decide⟩
  exact congrArg (fun c => Host.Outcome.next ({ s with crc := c }.respond rspOk))
    (crcTurns_eq_iterate 8 (s.crc ^^^ zext16 b))

/-- Settles O15: CRC.READ answers the register of the state it is issued in. -/
theorem crcReadResult : Obligations.CrcReadResult := by
  refine ⟨by decide, fun _ => rfl, fun s t h => ?_, fun _ => rfl, fun s => ?_⟩
  · obtain rfl := eq_respond_of_exec h
    rfl
  · have hcrc : crc16 [0x31#8] = 0x2F8D#16 := by decide
    exact ⟨_, runOps_init_updates_read [0x31#8] s, by rw [State.answer_respond, hcrc]⟩

end Sys2Proof.Machine
end

section
/-! CRC.COMPUTE (spec/41_frame_ops.md R120): its result on the host alone, and the checksum operations of a
run among framer operations, which see the `CRC` they would see without them (spec/20_memory.md R60). -/

namespace Sys2Proof.Machine

/-! ### The sequence and its result -/

/-- What CRC.COMPUTE leaves: `CRC` and the host's response hold the checksum `c` (R120). -/
def State.afterCompute (s : State) (c : Word) : State :=
  { s with issuer := .host, crc := c }.respond { code := .ok, crc := some c }

@[simp] theorem State.afterCompute_crc (s : State) (c : Word) : (s.afterCompute c).crc = c := rfl

theorem State.sameFramer_afterCompute (s : State) (c : Word) : SameFramer s (s.afterCompute c) :=
  ⟨rfl, rfl, rfl, rfl⟩

/-- The range `FB[i .. e-1]` (R10) as its first byte and its length give it. -/
theorem slice_eq_take_drop (fb : List Byte) (i e : Nat) : slice fb i e = (fb.drop i).take (e - i) :=
  List.drop_take

theorem slice_zero (fb : List Byte) (e : Nat) : slice fb 0 e = fb.take e := rfl

theorem length_crcComputeOps {fb : List Byte} {i e : Nat} (he : e ≤ fb.length) :
    (crcComputeOps fb i e).length = (e - i) + 2 := by
  have hslice : (slice fb i e).length = e - i := by
    rw [slice, List.length_drop, List.length_take, Nat.min_eq_left he]
  simp [crcComputeOps, hslice]

theorem runOps_crcComputeOps (fb : List Byte) (i e : Nat) (s : State) :
    runOps (crcComputeOps fb i e) s =
      .next ({ s with crc := crc16 (slice fb i e) }.respond
        { code := .ok, crc := some (crc16 (slice fb i e)) }) :=
  runOps_init_updates_read (slice fb i e) s

/-- R120: on a range inside the buffer. -/
theorem crcCompute_of_range {fb : List Byte} {i e : Nat} (hi : i ≤ e) (he : e ≤ fb.length) (s : State) :
    crcCompute fb i e s =
      some (s.afterCompute (crc16 (slice fb i e)), crc16 (slice fb i e)) := by
  rw [crcCompute, if_pos ⟨hi, he⟩, runOps_crcComputeOps]
  rfl

/-- U17: on a range that is not inside the buffer. -/
theorem crcCompute_of_not_range {fb : List Byte} {i e : Nat} (h : e < i ∨ fb.length < e) (s : State) :
    crcCompute fb i e s = none :=
  if_neg (by omega)

/-! ### Framer operations inside the sequence -/

/-- A run of operations of the two units leaves in `CRC` what its checksum operations alone leave there:
each of them reads `CRC` alone, and no framer operation writes it. -/
theorem runOps_crc_eq_filter {ops : List Instr} (hops : ∀ o ∈ ops, o.isCrc = true ∨ o.isFramer = true)
    {s u : State} (hcrc : s.crc = u.crc) :
    ∃ t v, runOps ops s = .next t ∧ runOps (ops.filter (·.isCrc)) u = .next v ∧ t.crc = v.crc := by
  induction ops generalizing s u with
  | nil => exact ⟨s, u, rfl, rfl, hcrc⟩
  | cons o ops ih =>
    have hrest : ∀ o ∈ ops, o.isCrc = true ∨ o.isFramer = true :=
      fun o ho => hops o (List.mem_cons_of_mem _ ho)
    rw [runOps_cons_of_next (exec_eq o s)]
    cases ho : o.isCrc with
    | true =>
      rw [List.filter_cons_of_pos ho, runOps_cons_of_next (exec_eq o u)]
      exact ih hrest (State.crcOp_congr ho hcrc).1
    | false =>
      rw [List.filter_cons_of_neg (by simp [ho])]
      have hframer : o.isFramer = true := (hops o List.mem_cons_self).resolve_left (by simp [ho])
      exact ih hrest ((State.afterOp_crc_of_isFramer hframer).trans hcrc)

/-- R120: framer operations anywhere inside CRC.COMPUTE have no effect on what it leaves in `CRC`. -/
theorem runOps_crc_of_filter_eq_crcComputeOps {ops : List Instr} {fb : List Byte} {i e : Nat}
    (hfilter : ops.filter (·.isCrc) = crcComputeOps fb i e)
    (hops : ∀ o ∈ ops, o.isCrc = true ∨ o.isFramer = true) (s : State) :
    ∃ t, runOps ops s = .next t ∧ t.crc = crc16 (slice fb i e) := by
  obtain ⟨t, v, ht, hv, hcrc⟩ := runOps_crc_eq_filter hops (Eq.refl s.crc)
  rw [hfilter, runOps_crcComputeOps] at hv
  cases hv
  exact ⟨t, ht, hcrc⟩

/-- The only CRC.READ of the sequence stands at its end. -/
theorem append_read_eq_crcComputeOps {xs ys : List Instr} {fb : List Byte} {i e : Nat}
    (h : xs ++ .crcRead :: ys = crcComputeOps fb i e) : xs ++ [.crcRead] = crcComputeOps fb i e := by
  have hupdates : Instr.crcRead ∉ Instr.crcInit :: (slice fb i e).map Instr.crcUpdate := by simp
  rw [crcComputeOps, ← List.cons_append] at h ⊢
  have hcount := congrArg (List.count Instr.crcRead) h
  rw [List.count_append, List.count_append, List.count_eq_zero.2 hupdates, List.count_cons_self,
    List.count_singleton_self] at hcount
  have hxs : Instr.crcRead ∉ xs := List.count_eq_zero.1 (by omega)
  have hys : Instr.crcRead ∉ ys := List.count_eq_zero.1 (by omega)
  rw [((List.append_cons_inj_of_notMem hxs hys).1 h).1]

/-- R120: the CRC.READ of a sequence with framer operations inside answers the checksum of the range. -/
theorem runOps_read_of_filter_eq_crcComputeOps {ops after : List Instr} {fb : List Byte} {i e : Nat}
    (hfilter : (ops ++ .crcRead :: after).filter (·.isCrc) = crcComputeOps fb i e)
    (hops : ∀ o ∈ ops ++ .crcRead :: after, o.isCrc = true ∨ o.isFramer = true) (s : State) :
    ∃ t, runOps (ops ++ [.crcRead]) s = .next t ∧
      t.answer = some { code := .ok, crc := some (crc16 (slice fb i e)) } := by
  have hread : (ops ++ [Instr.crcRead]).filter (·.isCrc) = crcComputeOps fb i e := by
    rw [List.filter_append] at hfilter ⊢
    exact append_read_eq_crcComputeOps hfilter
  rw [List.append_cons] at hops
  have hmem : ∀ o ∈ ops ++ [Instr.crcRead], o.isCrc = true ∨ o.isFramer = true :=
    fun o ho => hops o (List.mem_append_left _ ho)
  obtain ⟨t, ht, hcrc⟩ := runOps_crc_of_filter_eq_crcComputeOps hread hmem s
  obtain ⟨u, _, hu, _, _⟩ :=
    runOps_crc_eq_filter (fun o ho => hmem o (List.mem_append_left _ ho)) (Eq.refl s.crc)
  refine ⟨t, ht, ?_⟩
  rw [runOps_append_of_next hu] at ht
  cases ht
  rw [State.respond_crc] at hcrc
  rw [State.answer_respond, hcrc]

/-- Settles O23, by induction on the operations of both units: framer operations fall out of the run. -/
theorem computeGivesCrc16OfRange : Obligations.ComputeGivesCrc16OfRange := by
  simp only [Obligations.ComputeGivesCrc16OfRange, ← slice_eq_take_drop]
  refine ⟨fun fb i e s hi he => ?range, fun fb i s hi => ?empty,
    fun fb i e ops s _ _ hfilter hops => runOps_crc_of_filter_eq_crcComputeOps hfilter hops s,
    fun fb i e ops after s _ _ hfilter hops => runOps_read_of_filter_eq_crcComputeOps hfilter hops s,
    fun s => ?worked, by decide, by decide⟩
  case range =>
    exact ⟨_, crcCompute_of_range hi he s, s.afterCompute_crc _,
      s.sameFramer_afterCompute _, length_crcComputeOps he⟩
  case empty =>
    have hempty : slice fb i i = [] := by rw [slice_eq_take_drop, Nat.sub_self, List.take_zero]
    exact ⟨_, by rw [crcCompute_of_range le_rfl hi, hempty]; rfl⟩
  case worked =>
    have hcrc : crc16 [0xA0#8, 0x00#8, 0x1C#8, 0x00#8] = 0x9D2D#16 := by decide +kernel
    exact ⟨_, by rw [crcCompute_of_range (by decide) (by decide), ← hcrc]; rfl⟩

end Sys2Proof.Machine
end

section
/-! The host's buffer (spec/41_frame_ops.md R122 to R128): the length a header declares, and a buffer taken
apart into a body and the two bytes that hold its checksum, in which the pseudo-operations speak of it. -/

namespace Sys2Proof.Machine

/-! ### The declared length (R122, R126) -/

theorem explen_eq_some_iff {a : List Byte} {e : Nat} :
    explen a = some e ↔
      4 ≤ a.length ∧ a[0]? = some Config.sentinel0 ∧ a[1]? = some Config.sentinel1 ∧
        ∃ len : Byte, a[3]? = some len ∧ e = 6 + len.toNat := by
  have htotal : declaredTotal a = some e ↔ ∃ len : Byte, a[3]? = some len ∧ e = 6 + len.toNat := by
    rw [declaredTotal, Option.map_eq_some_iff]
    exact exists_congr fun len => and_congr_right fun _ => by
      dsimp only [Config.headerLen, Config.crcLen]
      omega
  rw [explen, ite_eq_iff, pairAt_iff, htotal]
  simp [and_assoc]

/-- Settles O24: the expected length reads the sentinel and the byte at offset 3 alone. -/
theorem expectedLengthOfHeader : Obligations.ExpectedLengthOfHeader := by
  refine ⟨fun a e => explen_eq_some_iff, fun a e h => ?bounds, fun x => rfl, fun x rest => rfl, rfl,
    fun n => ⟨rfl, rfl⟩⟩
  case bounds =>
    obtain ⟨_, _, _, len, _, rfl⟩ := explen_eq_some_iff.1 h
    have hlen := len.isLt
    omega

/-- R126: the fourth byte declares how many bytes stand between the header and the checksum. -/
theorem frameLenchk_cons (b0 b1 b2 len : Byte) (rest : List Byte) :
    frameLenchk (b0 :: b1 :: b2 :: len :: rest) =
      some (if rest.length = len.toNat + 2 then .ok else .errLen) := by
  have hlength : (b0 :: b1 :: b2 :: len :: rest).length = 4 + len.toNat + 2 ↔
      rest.length = len.toNat + 2 := by
    simp only [List.length_cons]
    omega
  exact congrArg some (if_congr hlength rfl rfl)

theorem frameLenchk_eq_none_iff {fb : List Byte} : frameLenchk fb = none ↔ fb.length < 4 := by
  rw [frameLenchk, declaredTotal, Option.map_eq_none_iff, Option.map_eq_none_iff,
    List.getElem?_eq_none_iff, Nat.lt_succ_iff]

/-- Settles O27, on naturals, so that nothing wraps. -/
theorem lenchkComparesDeclaredLength : Obligations.LenchkComparesDeclaredLength := by
  refine ⟨fun b0 b1 b2 len rest => ?declared, fun b0 b1 b2 rest => ?longest, rfl, rfl⟩
  case declared =>
    rw [frameLenchk_cons]
    exact congrArg some (if_congr (by omega) rfl rfl)
  case longest =>
    rw [frameLenchk_cons, Option.some.injEq, ite_eq_left_iff]
    have hmax : (0xFF#8 : Byte).toNat = 255 := rfl
    simp only [hmax, reduceCtorEq, imp_false, not_not]
    omega

/-! ### The stored checksum (R50) -/

theorem hiByte_append_loByte (c : Word) : hiByte c ++ loByte c = c :=
  BitVec.extractLsb'_append_extractLsb'

theorem eq_append_iff {c : Word} {hi lo : Byte} : c = hi ++ lo ↔ hiByte c = hi ∧ loByte c = lo := by
  constructor
  · rintro rfl
    exact ⟨BitVec.extractLsb'_append_eq_left, BitVec.extractLsb'_append_eq_right⟩
  · rintro ⟨rfl, rfl⟩
    exact (hiByte_append_loByte c).symm

/-- The stored value as a natural number: the first byte counts 256 fold (R50). -/
theorem eq_append_iff_toNat {c : Word} {hi lo : Byte} :
    c = hi ++ lo ↔ c.toNat = hi.toNat * 256 + lo.toNat := by
  have hvalue : (hi ++ lo).toNat = hi.toNat * 256 + lo.toNat := by
    rw [BitVec.toNat_append, ← Nat.shiftLeft_add_eq_or_of_lt lo.isLt, Nat.shiftLeft_eq]
  rw [← BitVec.toNat_inj, hvalue]

theorem memWrite2_append_pair (body : List Byte) (x y : Byte) (c : Word) :
    memWrite2 (body ++ [x, y]) body.length c = body ++ [hiByte c, loByte c] := by
  simp [memWrite2, List.set_append_right]

theorem memRead2_append_pair (body : List Byte) (hi lo : Byte) :
    memRead2 (body ++ [hi, lo]) body.length = some (hi ++ lo) := by
  simp [memRead2]

theorem length_append_pair_sub (body : List Byte) (x y : Byte) :
    (body ++ [x, y]).length - Config.crcLen = body.length := by
  simp

/-- A buffer of at least 2 bytes is a body and the two bytes that hold its checksum. -/
theorem exists_eq_append_pair {fb : List Byte} (h : 2 ≤ fb.length) :
    ∃ (body : List Byte) (x y : Byte), fb = body ++ [x, y] := by
  obtain ⟨x, y, hxy⟩ := List.length_eq_two.1 (show (fb.drop (fb.length - 2)).length = 2 by
    rw [List.length_drop]
    omega)
  exact ⟨fb.take (fb.length - 2), x, y, by rw [← hxy, List.take_append_drop]⟩

/-- A buffer of at least 6 bytes is a header of four, a payload and the two bytes of the checksum. -/
theorem exists_eq_header_append_pair {fb : List Byte} (h : 6 ≤ fb.length) :
    ∃ (b0 b1 b2 len : Byte) (mid : List Byte) (x y : Byte),
      fb = b0 :: b1 :: b2 :: len :: (mid ++ [x, y]) := by
  match fb with
  | b0 :: b1 :: b2 :: len :: rest =>
    obtain ⟨mid, x, y, rfl⟩ := exists_eq_append_pair (fb := rest) (by simpa using h)
    exact ⟨b0, b1, b2, len, mid, x, y, rfl⟩

/-! ### One inverted bit of a buffer -/

theorem flipAt_append_left {s : List Byte} {i : Nat} (hi : i < s.length) (t : List Byte) (k : Nat) :
    flipAt (s ++ t) i k = flipAt s i k ++ t := by
  simp only [flipAt, List.modify_eq_set, List.getElem?_append_left hi, List.set_append_left i _ hi]

theorem flipAt_append_right {s : List Byte} {i : Nat} (hi : s.length ≤ i) (t : List Byte) (k : Nat) :
    flipAt (s ++ t) i k = s ++ flipAt t (i - s.length) k := by
  simp only [flipAt, List.modify_eq_set, List.getElem?_append_right hi, List.set_append_right i _ hi]

end Sys2Proof.Machine
end

section
/-! FRAME.SEAL, FRAME.VERIFY and FRAME.CHECK (spec/41_frame_ops.md R123 to R128): the result of each, as an
equation on a buffer written as a body and its last two bytes. -/

namespace Sys2Proof.Machine

section
variable {body : List Byte} {c : Word}

/-- CRC.COMPUTE of all bytes but the last two, as the frame operations issue it. -/
theorem crcCompute_body (hc : crc16 body = c) (x y : Byte) (s : State) :
    crcCompute (body ++ [x, y]) 0 body.length s = some (s.afterCompute c, c) := by
  rw [crcCompute_of_range (Nat.zero_le _) (by simp), slice_zero, List.take_left, hc]

/-- R123. -/
theorem frameSeal_append (hc : crc16 body = c) (x y : Byte) (s : State) :
    frameSeal (body ++ [x, y]) s = some (s.afterCompute c, body ++ [hiByte c, loByte c]) := by
  rw [frameSeal, if_pos (by simp), length_append_pair_sub, crcCompute_body hc, Option.map_some,
    memWrite2_append_pair]

/-- R125. -/
theorem frameVerify_append (hc : crc16 body = c) (hi lo : Byte) (s : State) :
    frameVerify (body ++ [hi, lo]) s =
      some (s.afterCompute c, if c = hi ++ lo then .ok else .errCrc) := by
  rw [frameVerify, if_pos (by simp), length_append_pair_sub, crcCompute_body hc,
    memRead2_append_pair]

end

theorem frameSeal_of_short {fb : List Byte} (h : fb.length < 2) (s : State) : frameSeal fb s = none :=
  if_neg (Nat.not_le.2 h)

theorem frameVerify_of_short {fb : List Byte} (h : fb.length < 2) (s : State) :
    frameVerify fb s = none :=
  if_neg (Nat.not_le.2 h)

/-- Settles O25, from the equation of a sealed buffer. -/
theorem sealStoresChecksumBigEndian : Obligations.SealStoresChecksumBigEndian := by
  refine ⟨fun fb s h => ?sealed, fun x y s => ⟨_, frameSeal_append (body := []) rfl x y s⟩,
    ⟨[0xEC#8, 0x10#8], by decide +kernel⟩, fun x y s => ?noPayload,
    fun x y s => ?twoBytePayload, fun x y s => ?zeroType, by decide +kernel⟩
  case noPayload =>
    exact ⟨_, frameSeal_append (body := [0xA0#8, 0x00#8, 0x1C#8, 0x00#8]) (c := 0x9D2D#16)
      (by decide +kernel) x y s⟩
  case twoBytePayload =>
    exact ⟨_, frameSeal_append (body := [0xA0#8, 0x00#8, 0x10#8, 0x02#8, 0x11#8, 0x22#8])
      (c := 0x70F2#16) (by decide +kernel) x y s⟩
  case zeroType =>
    exact ⟨_, frameSeal_append (body := [0xA0#8, 0x00#8, 0x00#8, 0x00#8]) (c := 0xA11C#16)
      (by decide +kernel) x y s⟩
  case sealed =>
    obtain ⟨body, x, y, rfl⟩ := exists_eq_append_pair h
    have htake : (body ++ [x, y]).take ((body ++ [x, y]).length - 2) = body := by simp
    rw [htake]
    exact ⟨_, frameSeal_append rfl x y s, s.afterCompute_crc _, s.sameFramer_afterCompute _⟩

/-- Settles O26, from the equation of FRAME.VERIFY, the stored value read as a natural number. -/
theorem verifyComparesStoredChecksum : Obligations.VerifyComparesStoredChecksum := by
  have hframe : crc16 [0xA0#8, 0x00#8, 0x10#8, 0x02#8, 0x11#8, 0x22#8] = 0x70F2#16 := by
    decide +kernel
  have hchanged : crc16 [0xA0#8, 0x00#8, 0x10#8, 0x02#8, 0x11#8, 0x23#8] = 0x617B#16 := by
    decide +kernel
  have hnoSentinel : crc16 [0x12#8, 0x34#8, 0x10#8, 0x01#8, 0x99#8] = 0x395B#16 := by decide +kernel
  refine ⟨fun body hi lo s => ?compares, fun s => ⟨_, frameVerify_append (body := []) rfl _ _ s⟩,
    fun s => ⟨_, frameVerify_append hnoSentinel _ _ s⟩,
    fun s => ⟨_, frameVerify_append hframe _ _ s⟩,
    fun s => ⟨_, frameVerify_append hframe _ _ s, s.afterCompute_crc _⟩,
    fun s => ⟨_, frameVerify_append hchanged _ _ s, s.afterCompute_crc _⟩⟩
  case compares =>
    simp only [← eq_append_iff_toNat]
    exact ⟨_, frameVerify_append rfl hi lo s, s.afterCompute_crc _, s.sameFramer_afterCompute _⟩

/-! ### The checks in order (R127) -/

section
variable {b0 b1 b2 len : Byte} {mid : List Byte} {c : Word}

theorem frameCheckWith_of_short (ty kind : List Byte → Check) {fb : List Byte} (h : fb.length < 6)
    (s : State) : frameCheckWith ty kind fb s = some (s, .errLen) :=
  if_pos h

/-- R127: past the guard, the checksum, the type code, the declared length, the kind. -/
theorem frameCheckWith_append (hc : crc16 (b0 :: b1 :: b2 :: len :: mid) = c)
    (ty kind : List Byte → Check) (hi lo : Byte) (s : State) :
    frameCheckWith ty kind (b0 :: b1 :: b2 :: len :: (mid ++ [hi, lo])) s =
      some (s.afterCompute c,
        if c ≠ hi ++ lo then .errCrc
        else if ty (b0 :: b1 :: b2 :: len :: (mid ++ [hi, lo])) ≠ .ok then
          ty (b0 :: b1 :: b2 :: len :: (mid ++ [hi, lo]))
        else if mid.length ≠ len.toNat then .errLen
        else kind (b0 :: b1 :: b2 :: len :: (mid ++ [hi, lo]))) := by
  have hguard : ¬ (b0 :: b1 :: b2 :: len :: (mid ++ [hi, lo])).length < Config.minFrameLen := by
    simp [Config.minFrameLen, Config.headerLen, Config.crcLen]
  have hverify := frameVerify_append hc hi lo s
  have hlenchk := frameLenchk_cons b0 b1 b2 len (mid ++ [hi, lo])
  simp only [List.cons_append, List.length_append, List.length_cons, List.length_nil,
    Nat.add_right_cancel_iff] at hverify hlenchk
  rw [frameCheckWith, if_neg hguard, hverify, hlenchk]
  by_cases hcrc : c = hi ++ lo
  case neg => simp [hcrc]
  case pos =>
    cases hty : ty (b0 :: b1 :: b2 :: len :: (mid ++ [hi, lo])) with
    | ok => by_cases hlen : mid.length = len.toNat <;> simp [hcrc, hlen]
    | _ => simp [hcrc]

/-- R127 with nothing standing at the two places it leaves to the decoder. -/
theorem frameCheck_append (hc : crc16 (b0 :: b1 :: b2 :: len :: mid) = c) (hi lo : Byte) (s : State) :
    frameCheck (b0 :: b1 :: b2 :: len :: (mid ++ [hi, lo])) s =
      some (s.afterCompute c,
        if c ≠ hi ++ lo then .errCrc else if mid.length ≠ len.toNat then .errLen else .ok) :=
  frameCheckWith_append hc _ _ hi lo s

end

/-- Settles O28, from the equation of FRAME.CHECK. -/
theorem checkReturnsFirstFailure : Obligations.CheckReturnsFirstFailure := by
  refine ⟨fun fb s h => frameCheckWith_of_short _ _ h s, fun b0 b1 b2 len mid hi lo s => ?checks,
    fun s => ⟨_, frameCheck_append (mid := []) (c := 0x9D2D#16) (by decide +kernel) _ _ s⟩,
    fun s => frameCheckWith_of_short _ _ (by decide) s, fun s => ?oneByteMore,
    fun s => ?lengthByteLow,
    fun s => ⟨_, frameCheck_append (mid := []) (c := 0x0321#16) (by decide +kernel) _ _ s⟩⟩
  case oneByteMore =>
    exact ⟨_, frameCheck_append (mid := [0x11#8, 0x22#8, 0x70#8]) (c := 0xA76A#16) (by decide +kernel)
      _ _ s, s.afterCompute_crc _⟩
  case lengthByteLow =>
    exact ⟨_, frameCheck_append (mid := [0x11#8, 0x22#8, 0x33#8]) (c := 0xD7F5#16) (by decide +kernel)
      _ _ s⟩
  case checks =>
    have hlen : 4 + mid.length + 2 = 6 + len.toNat ↔ mid.length = len.toNat := by omega
    simp only [Ne, ← eq_append_iff_toNat, hlen]
    exact ⟨_, frameCheck_append rfl hi lo s, s.afterCompute_crc _, s.sameFramer_afterCompute _⟩

/-- Settles O29, from the equation of FRAME.CHECK with the decoder's checks in place. -/
theorem decoderChecksStandInSourceOrder : Obligations.DecoderChecksStandInSourceOrder := by
  refine ⟨fun ty kind fb s h => frameCheckWith_of_short ty kind h s,
    fun ty kind b0 b1 b2 len mid hi lo s => ?_⟩
  simp only [Ne, ← eq_append_iff_toNat]
  exact ⟨_, frameCheckWith_append rfl ty kind hi lo s, s.afterCompute_crc _,
    s.sameFramer_afterCompute _⟩

/-- Settles O30: the guards of the operand ranges; FRAME.CHECK's own guard leaves none to meet. -/
theorem operandsOutOfRangeHaveNoResult : Obligations.OperandsOutOfRangeHaveNoResult := by
  refine ⟨fun fb i e s h => crcCompute_of_not_range h s,
    fun fb s h => ⟨frameSeal_of_short h s, frameVerify_of_short h s⟩,
    fun fb => frameLenchk_eq_none_iff.symm, fun fb s => ?_⟩
  obtain hshort | hlong := Nat.lt_or_ge fb.length 6
  · rw [frameCheck, frameCheckWith_of_short _ _ hshort, Option.isSome_some]
  · obtain ⟨b0, b1, b2, len, mid, x, y, rfl⟩ := exists_eq_header_append_pair hlong
    rw [frameCheck_append rfl, Option.isSome_some]

/-! ### A sealed frame (R128) -/

/-- A sealed buffer is its body with the checksum of it. -/
theorem exists_body_of_frameSeal {fb fb' : List Byte} {s t : State} (hlen : 2 ≤ fb.length)
    (h : frameSeal fb s = some (t, fb')) :
    ∃ body, fb.length = body.length + 2 ∧
      fb' = body ++ [hiByte (crc16 body), loByte (crc16 body)] := by
  obtain ⟨body, x, y, rfl⟩ := exists_eq_append_pair hlen
  rw [frameSeal_append rfl] at h
  cases h
  exact ⟨body, List.length_append, rfl⟩

theorem frameVerify_sealed (body : List Byte) (s : State) :
    frameVerify (body ++ [hiByte (crc16 body), loByte (crc16 body)]) s =
      some (s.afterCompute (crc16 body), .ok) := by
  rw [frameVerify_append rfl, hiByte_append_loByte, if_pos rfl]

theorem frameCheck_sealed {b0 b1 b2 len : Byte} {mid : List Byte} {c : Word}
    (hc : crc16 (b0 :: b1 :: b2 :: len :: mid) = c) (hlen : mid.length = len.toNat) (s : State) :
    frameCheck (b0 :: b1 :: b2 :: len :: (mid ++ [hiByte c, loByte c])) s =
      some (s.afterCompute c, .ok) := by
  rw [frameCheck_append hc, hiByte_append_loByte, if_neg (not_not.2 rfl), if_neg (not_not.2 hlen)]

/-- FRAME.VERIFY fails as soon as the covered range and the stored bytes disagree. -/
theorem frameVerify_eq_errCrc {body : List Byte} {hi lo : Byte} (h : crc16 body ≠ hi ++ lo)
    (s : State) : ∃ v, frameVerify (body ++ [hi, lo]) s = some (v, .errCrc) :=
  ⟨_, by rw [frameVerify_append rfl, if_neg h]⟩

/-- An inverted bit of the covered range changes the checksum; one of the stored bytes changes the stored
value (R128). -/
theorem frameVerify_flipAt_sealed (body : List Byte) {i k : Nat} (hi : i < body.length + 2) (hk : k < 8)
    (s : State) :
    ∃ v, frameVerify (flipAt (body ++ [hiByte (crc16 body), loByte (crc16 body)]) i k) s =
      some (v, .errCrc) := by
  obtain hcovered | hstored := Nat.lt_or_ge i body.length
  · rw [flipAt_append_left hcovered]
    apply frameVerify_eq_errCrc
    rw [hiByte_append_loByte]
    exact crc16_flipAt_ne hcovered hk
  · rw [flipAt_append_right hstored]
    obtain hfirst | hsecond : i - body.length = 0 ∨ i - body.length = 1 := by omega
    · rw [hfirst]
      exact frameVerify_eq_errCrc (fun heq => flipBit_ne _ hk (eq_append_iff.1 heq).1.symm) s
    · rw [hsecond]
      exact frameVerify_eq_errCrc (fun heq => flipBit_ne _ hk (eq_append_iff.1 heq).2.symm) s

/-- Settles O31: a sealed buffer stores the checksum that verifying computes, and any one inverted bit
makes the two differ. -/
theorem sealedFrameVerifiesAndFlipsAreCaught : Obligations.SealedFrameVerifiesAndFlipsAreCaught := by
  refine ⟨fun fb fb' s t u hfb hseal => ?verifies, fun ty len fb fb' s t u hfb htake hseal => ?checks,
    fun fb fb' s t u i k hfb hseal hi hk => ?flipped⟩
  case verifies =>
    obtain ⟨body, _, rfl⟩ := exists_body_of_frameSeal hfb hseal
    exact ⟨_, frameVerify_sealed body u⟩
  case checks =>
    obtain ⟨b0, b1, b2, b3, mid, x, y, rfl⟩ := exists_eq_header_append_pair (by omega : 6 ≤ fb.length)
    obtain ⟨rfl, rfl, rfl, rfl⟩ : b0 = 0xA0#8 ∧ b1 = 0x00#8 ∧ b2 = ty ∧ b3 = len := by
      simpa using htake
    have hmid : mid.length = b3.toNat := by
      simp only [List.length_cons, List.length_append, List.length_nil] at hfb
      omega
    have hsealed := frameSeal_append (body := 0xA0#8 :: 0x00#8 :: b2 :: b3 :: mid) rfl x y s
    cases hseal.symm.trans hsealed
    exact ⟨_, frameCheck_sealed rfl hmid u⟩
  case flipped =>
    obtain ⟨body, hlen, rfl⟩ := exists_body_of_frameSeal hfb hseal
    exact frameVerify_flipAt_sealed body (hlen ▸ hi) hk u

end Sys2Proof.Machine
end

section
/-! The framer's input, output and status operations (spec/42_framer_io_ops.md R140 to R146): what each one
leaves and answers, and what runs of received bytes and of pops leave. -/

namespace Sys2Proof.Machine

/-! ### BLK.RESET -/

/-- Settles O12, by evaluation: BLK.RESET is `resetBlock` and the response. -/
theorem blkResetResult : Obligations.BlkResetResult := ⟨by decide, fun _ => rfl⟩

/-! ### FRM.RXBYTE -/

section
variable {s : State}

/-- R140: there is room in the backlog. -/
theorem exec_frmRxbyte_of_room (h : s.raw.length < s.params.rawCap) (b : Byte) :
    exec (.frmRxbyte b) s = .next ({ s with raw := s.raw ++ [b] }.respond rspOk) := by
  rw [exec, execFrmRxbyte, if_pos h, State.pushRaw]

/-- R141: the backlog is full. -/
theorem exec_frmRxbyte_of_full (h : s.params.rawCap ≤ s.raw.length) (b : Byte) :
    exec (.frmRxbyte b) s = .next ({ s with rxovf := true }.respond rspOk) := by
  rw [exec, execFrmRxbyte, if_neg (Nat.not_lt.2 h), State.setRxovf]

end

theorem encode_frmRxbyte (b : Byte) : encode (.frmRxbyte b) = 0x400#12 ||| b.setWidth 12 := by
  rw [encode, Instr.opcode, Instr.argByte, BitVec.append_def, BitVec.setWidth'_eq]
  rfl

/-- Settles O32, from the two cases of the backlog. -/
theorem rxbyteQueuesOrMarksOverflow : Obligations.RxbyteQueuesOrMarksOverflow :=
  ⟨encode_frmRxbyte, fun b _ h => exec_frmRxbyte_of_room h b,
    fun b _ h => exec_frmRxbyte_of_full h b⟩

/-- Settles O33, by induction on the bytes received: each is queued behind the old contents or, once the
backlog is full, marked in `RXOVF`, and from then on nothing more gets in. -/
theorem backlogKeepsReceivedPrefix : Obligations.BacklogKeepsReceivedPrefix := by
  intro bs
  induction bs with
  | nil =>
    intro s hcap
    refine ⟨s, rfl, ?_, ?_, rfl, rfl, rfl, rfl⟩
    · rw [List.append_nil, List.take_of_length_le hcap]
    · simp [hcap]
  | cons b bs ih =>
    intro s hcap
    obtain hroom | hfull := Nat.lt_or_ge s.raw.length s.params.rawCap
    · obtain ⟨t, hrun, hraw, hrxovf, hrest⟩ :=
        ih ({ s with raw := s.raw ++ [b] }.respond rspOk) (by simpa using hroom)
      refine ⟨t, (runOps_cons_of_next (exec_frmRxbyte_of_room hroom b) _).trans hrun, ?_, ?_, hrest⟩
      · simpa using hraw
      · simpa [Nat.add_assoc, Nat.add_comm 1] using hrxovf
    · obtain ⟨t, hrun, hraw, hrxovf, hrest⟩ := ih ({ s with rxovf := true }.respond rspOk) hcap
      have hlen : s.raw.length = s.params.rawCap := Nat.le_antisymm hcap hfull
      refine ⟨t, (runOps_cons_of_next (exec_frmRxbyte_of_full hfull b) _).trans hrun, ?_, ?_, hrest⟩
      · rw [hraw]
        exact (List.take_left' hlen).trans (List.take_left' hlen).symm
      · simp [hrxovf, hlen]

/-! ### FRM.POP -/

/-- The answer of FRM.POP, given the head of the queue (R142). -/
def popResponse : Option (List Byte) → Response
  | none => { code := .empty }
  | some f => { code := .ok, frame := some f }

theorem State.opResponse_frmPop (s : State) : s.opResponse .frmPop = popResponse s.cfq.head? := by
  rw [State.opResponse]
  cases s.cfq <;> rfl

/-- On an empty queue there is nothing to remove (R142). -/
theorem State.afterOp_frmPop_of_nil {s : State} (h : s.cfq = []) : s.afterOp .frmPop = s := by
  rw [State.afterOp, h, List.tail_nil, ← h]

/-- Each pop of a run removes one frame from the front, while there is one, and leaves `RXOVF`. -/
theorem runOps_pops (n : Nat) (s : State) :
    ∃ t, runOps (List.replicate n .frmPop) s = .next t ∧ t.cfq = s.cfq.drop n ∧
      t.rxovf = s.rxovf := by
  induction n generalizing s with
  | zero => exact ⟨s, rfl, rfl, rfl⟩
  | succ n ih =>
    obtain ⟨t, hrun, hcfq, hrxovf⟩ := ih ((s.afterOp .frmPop).respond (s.opResponse .frmPop))
    refine ⟨t, (runOps_cons_of_next (exec_eq .frmPop s) _).trans hrun, ?_, hrxovf⟩
    rw [hcfq, ← List.drop_tail]
    rfl

/-- The last of `k + 1` pops answers from what stood at index `k` (R142). -/
theorem runOps_pops_succ (k : Nat) (s : State) :
    ∃ t, runOps (List.replicate (k + 1) .frmPop) s = .next t ∧
      t.answer = some (popResponse s.cfq[k]?) ∧ t.cfq = s.cfq.drop (k + 1) ∧ t.rxovf = s.rxovf := by
  obtain ⟨u, hrun, hcfq, hrxovf⟩ := runOps_pops k s
  refine ⟨(u.afterOp .frmPop).respond (u.opResponse .frmPop), ?_, ?_, ?_, hrxovf⟩
  · rw [List.replicate_succ', runOps_append_of_next hrun, runOps_cons_of_next (exec_eq .frmPop u),
      runOps_nil]
  · rw [State.answer_respond, State.opResponse_frmPop, hcfq, List.head?_drop]
  · rw [State.respond_cfq, State.afterOp, hcfq, List.tail_drop]

/-- Settles O34, from the answer of the last pop of a run. -/
theorem popTakesFramesInOrder : Obligations.PopTakesFramesInOrder := by
  refine ⟨by decide, fun s h => ?empty, fun s f rest h => ?head, fun s k f h => ?nth,
    fun s => ?onceMore⟩
  case empty => rw [exec_eq, State.afterOp_frmPop_of_nil h, State.opResponse_frmPop, h]; rfl
  case head => rw [exec_eq, State.afterOp, State.opResponse_frmPop, h]; rfl
  case nth =>
    obtain ⟨t, hrun, hanswer, hcfq, _⟩ := runOps_pops_succ k s
    exact ⟨t, hrun, by rw [hanswer, h]; rfl, hcfq⟩
  case onceMore =>
    obtain ⟨t, hrun, hanswer, hcfq, _⟩ := runOps_pops_succ s.cfq.length s
    exact ⟨t, hrun, by rw [hanswer, List.getElem?_eq_none le_rfl]; rfl,
      by rw [hcfq, List.drop_eq_nil_of_le (Nat.le_succ _)]⟩

/-! ### FRM.STATUS -/

/-- FRM.STATUS answers the status it found to hold, `x` (R28, R144). -/
theorem exec_frmStatus_of_sniff {s : State} {rx cs : Bool} {x : Sniff} (h : s.sniff rx cs = x) :
    exec (.frmStatus rx cs) s = .next (s.respond
      { code := .ok, sniff := some x, rxovf := some s.rxovf, count := some s.cfq.length }) := by
  rw [← h]
  rfl

/-- Settles O35: the three cases of the status are the branches of R28. -/
theorem statusReportsFirstThatHolds : Obligations.StatusReportsFirstThatHolds := by
  refine ⟨by decide, fun rx cs s hcfq => ?pending, fun rx cs s hcfq hbusy => ?busy,
    fun s hcfq hraw hacc => ?idle, rfl, rfl, rfl, fun x => ?code⟩
  case pending => exact exec_frmStatus_of_sniff (by rw [State.sniff_eq, if_pos hcfq])
  case busy =>
    rw [exec_frmStatus_of_sniff (by rw [State.sniff_eq, if_neg (not_not.2 hcfq), if_pos hbusy]), hcfq]
    rfl
  case idle =>
    rw [exec_frmStatus_of_sniff (x := .idle) (by simp [State.sniff_eq, hcfq, hraw, hacc]), hcfq]
    rfl
  case code => cases x <;> decide

end Sys2Proof.Machine
end

section
/-! What a tick queues (spec/43_framer_tick.md R163, R170) and how it cuts a stream of clean frames (R173),
and with them the way of a clean frame from the line to the host. -/

namespace Sys2Proof.Machine

/-! ### The queue after several pushes (R163) -/

/-- What pushing the frames `cs`, one after the other, leaves of the queue `q`: with none to push the
capacity is not applied either. -/
def afterPushes (cap : Nat) (q cs : List (List Byte)) : List (List Byte) :=
  if cs = [] then q else newest cap (q ++ cs)

theorem afterPushes_nil (cap : Nat) (q : List (List Byte)) : afterPushes cap q [] = q := rfl

theorem afterPushes_append (cap : Nat) (q cs ds : List (List Byte)) :
    afterPushes cap q (cs ++ ds) = afterPushes cap (afterPushes cap q cs) ds := by
  cases cs with
  | nil => rfl
  | cons c cs =>
    cases ds with
    | nil => rw [List.append_nil, afterPushes_nil]
    | cons d ds => simp [afterPushes, newest_newest_append]

/-- Frames that fit an empty queue all stay. -/
theorem afterPushes_nil_left_of_fits {cap : Nat} {cs : List (List Byte)} (h : cs.length ≤ cap) :
    afterPushes cap [] cs = cs := by
  simp [afterPushes, newest, Nat.sub_eq_zero_of_le h]

/-! ### What a tick queues (R170) -/

theorem State.tickPass_cfq (s : State) :
    s.tickPass.cfq = afterPushes s.params.fqCap s.cfq (s.passCuts.map (·.2)) := by
  rw [State.tickPass, State.passCuts]
  cases s.tickStep <;> rfl

@[simp] theorem State.tickPass_params (s : State) : s.tickPass.params = s.params := by
  rw [State.tickPass_only]

theorem State.loopCuts_nil (n : Nat) {s : State} (h : s.raw = []) : State.loopCuts n s = [] := by
  cases n with
  | zero => rfl
  | succ n => exact if_pos h

theorem State.loopCuts_succ (n : Nat) {s : State} (h : s.raw ≠ []) :
    State.loopCuts (n + 1) s = s.passCuts ++ State.loopCuts n s.tickPass :=
  if_neg h

theorem State.tickLoop_cfq (n : Nat) (s : State) :
    (State.tickLoop n s).cfq =
      afterPushes s.params.fqCap s.cfq ((State.loopCuts n s).map (·.2)) := by
  induction n generalizing s with
  | zero => rfl
  | succ n ih =>
    by_cases hraw : s.raw = []
    · rw [State.tickLoop_nil _ _ hraw, State.loopCuts_nil _ hraw]
      rfl
    · rw [State.tickLoop_succ _ _ hraw, State.loopCuts_succ _ hraw, ih, State.tickPass_cfq,
        State.tickPass_params, List.map_append, afterPushes_append]

/-- Step 6 pushes the accumulator unless it is empty (R168). -/
theorem State.tickFlush_cfq (s : State) :
    s.tickFlush.cfq =
      afterPushes s.params.fqCap s.cfq (if 0 < s.acc.length then [s.acc] else []) := by
  rw [State.tickFlush]
  split <;> rfl

/-- The queue a tick leaves is that of pushing its candidates (R160, R170). -/
theorem State.tick_cfq (s : State) :
    s.tick.cfq = afterPushes s.params.fqCap s.cfq s.tickCandidates := by
  have hparams : (State.tickLoop s.tickFuel s).params = s.params := by rw [State.tickLoop_only]
  rw [State.tick, State.tickFlush_cfq, hparams, State.tickLoop_cfq, ← afterPushes_append]
  rfl

/-! ### Clean frames (R70, R173) -/

theorem frameWf_iff {f : List Byte} :
    Frame.wf f = true ↔ f[0]? = some Config.sentinel0 ∧ f[1]? = some Config.sentinel1 ∧
      ∃ len : Byte, f[3]? = some len ∧ f.length = 6 + len.toNat := by
  have htotal : f[3]?.map (fun len : Byte => 4 + len.toNat + 2) = some f.length ↔
      ∃ len : Byte, f[3]? = some len ∧ f.length = 6 + len.toNat := by
    rw [Option.map_eq_some_iff]
    exact exists_congr fun len => and_congr_right fun _ => by omega
  simp [Frame.wf, htotal, and_assoc]

theorem length_pos_of_frameWf {f : List Byte} (h : Frame.wf f = true) : 0 < f.length := by
  obtain ⟨-, -, len, -, hlen⟩ := frameWf_iff.1 h
  omega

/-- A frame declares its own length (R27, R70). -/
theorem explen_of_frameWf {f : List Byte} (h : Frame.wf f = true) : explen f = some f.length := by
  obtain ⟨h0, h1, len, h3, hlen⟩ := frameWf_iff.1 h
  exact explen_eq_some_iff.2 ⟨by omega, h0, h1, len, h3, hlen⟩

/-- The expected length stands in the header: further bytes do not change it (R27). -/
theorem explen_append {a : List Byte} (h : 4 ≤ a.length) (x : List Byte) :
    explen (a ++ x) = explen a := by
  match a with
  | b0 :: b1 :: b2 :: b3 :: rest => simp [explen, pairAt, declaredTotal, Config.headerLen]

theorem cleanFrame_iff {p : Params} {f : List Byte} :
    cleanFrame p f = true ↔
      Frame.wf f = true ∧ f.length ≤ p.frameMaxLen ∧ pairAt f 2 = false ∧ pairAt f 3 = false := by
  simp [cleanFrame, lookAlike, and_assoc]

/-- Past its head a clean frame carries the pair behind its header only (R173). -/
theorem headerLen_le_of_pairAt_clean {p : Params} {f : List Byte} (h : cleanFrame p f = true) {i : Nat}
    (hi : i ≠ 0) (hpair : pairAt f i = true) : 4 ≤ i := by
  obtain ⟨hwf, -, h2, h3⟩ := cleanFrame_iff.1 h
  obtain ⟨-, h1, -⟩ := frameWf_iff.1 hwf
  by_contra hlt
  obtain rfl | rfl | rfl : i = 1 ∨ i = 2 ∨ i = 3 := by omega
  · exact sentinel1_ne_sentinel0 (Option.some.inj (h1.symm.trans ((pairAt_iff f 1).1 hpair).1))
  · exact absurd hpair (by simp [h2])
  · exact absurd hpair (by simp [h3])

/-- Frames one after the other begin with the sentinel. -/
theorem sentAtHead_flatten_cons {g : List Byte} (hg : Frame.wf g = true) (gs : List (List Byte)) :
    sentAtHead (g :: gs).flatten = true := by
  obtain ⟨h0, h1, -⟩ := frameWf_iff.1 hg
  obtain ⟨rest, rfl⟩ := (sentAtHead_iff g).1 ((pairAt_iff g 0).2 ⟨h0, h1⟩)
  exact (sentAtHead_iff _).2 ⟨_, rfl⟩

/-! ### A tick over clean frames (R173) -/

/-- Between two passes of a tick over clean frames: the accumulator holds what has been taken of the frame
`f`, the backlog the bytes `todo` left of it and then the frames `fs`. -/
structure CleanStream (s : State) (f todo : List Byte) (fs : List (List Byte)) : Prop where
  acc : s.acc ++ todo = f
  raw : s.raw = todo ++ fs.flatten
  clean : ∀ g ∈ f :: fs, cleanFrame s.params g = true

namespace CleanStream

variable {s : State} {f todo : List Byte} {fs : List (List Byte)}

/-- At the start of a tick over frames one after the other nothing has been taken of the first. -/
theorem start (hacc : s.acc = []) (hraw : s.raw = (f :: fs).flatten)
    (hclean : ∀ g ∈ f :: fs, cleanFrame s.params g = true) : CleanStream s f f fs :=
  ⟨by rw [hacc, List.nil_append], hraw, hclean⟩

theorem wf (h : CleanStream s f todo fs) {g : List Byte} (hg : g ∈ f :: fs) : Frame.wf g = true :=
  (cleanFrame_iff.1 (h.clean g hg)).1

theorem acc_length_le (h : CleanStream s f todo fs) : s.acc.length ≤ f.length := by
  rw [← h.acc, List.length_append]
  omega

theorem explen_acc (h : CleanStream s f todo fs) (hlen : 4 ≤ s.acc.length) :
    explen s.acc = some f.length := by
  rw [← explen_of_frameWf (h.wf List.mem_cons_self), ← h.acc, explen_append hlen]

/-- While a frame is being taken the accumulator is never longer than it should be. -/
theorem acc_length_le_of_explen (h : CleanStream s f todo fs) {e : Nat} (he : explen s.acc = some e) :
    s.acc.length ≤ e := by
  obtain rfl := Option.some.inj ((h.explen_acc (headerLen_le_of_explen he)).symm.trans he)
  exact h.acc_length_le

/-- A sentinel at the head of the backlog is the frame's own while bytes of it are left: what follows the
frame begins with a sentinel itself, so no pair straddles its end. -/
theorem exists_todo_of_sentinel (h : CleanStream s f todo fs) (htodo : todo ≠ []) {rest : List Byte}
    (hraw : s.raw = Config.sentinel0 :: Config.sentinel1 :: rest) :
    ∃ todo', todo = Config.sentinel0 :: Config.sentinel1 :: todo' := by
  have hboth := h.raw.symm.trans hraw
  match todo, fs with
  | b :: c :: todo', _ =>
    obtain ⟨rfl, rfl, -⟩ : b = Config.sentinel0 ∧ c = Config.sentinel1 ∧ _ := by simpa using hboth
    exact ⟨todo', rfl⟩
  | [b], [] => simp at hboth
  | [b], g :: gs =>
    obtain ⟨rest', hflat⟩ :=
      (sentAtHead_iff _).1 (sentAtHead_flatten_cons (h.wf (g := g) (by simp)) gs)
    rw [hflat] at hboth
    simp at hboth

/-- A sentinel inside the frame is merged: it stands behind the header, so the expected length is known,
and the accumulator is still short of it (R164). -/
theorem mergeCond_of_todo (h : CleanStream s f todo fs) (hacc : s.acc ≠ []) {todo' : List Byte}
    (htodo : todo = Config.sentinel0 :: Config.sentinel1 :: todo') : s.mergeCond = true := by
  have hclean := h.clean f List.mem_cons_self
  obtain ⟨-, hmax, -, -⟩ := cleanFrame_iff.1 hclean
  have hf := h.acc
  rw [htodo] at hf
  have hpos := List.length_pos_iff.2 hacc
  have hpair : pairAt f s.acc.length = true := by
    rw [pairAt_iff, ← hf]
    simp
  have hlt := pairAt_bound hpair
  have hexplen := h.explen_acc (headerLen_le_of_pairAt_clean hclean (by omega) hpair)
  have hsent : sentAtHead s.raw = true :=
    (sentAtHead_iff _).2 ⟨todo' ++ fs.flatten, by rw [h.raw, htodo]; rfl⟩
  simp only [State.mergeCond, hsent, hexplen, shorterThan, Bool.and_eq_true, decide_eq_true_eq]
  exact ⟨⟨⟨trivial, hpos⟩, by omega⟩, by omega⟩

/-- Taking the next bytes `xs` of the frame. -/
theorem take_bytes {xs todo' : List Byte} {t : State} (h : CleanStream s f (xs ++ todo') fs)
    (hacc : t.acc = s.acc ++ xs) (hraw : t.raw = todo' ++ fs.flatten) (hparams : t.params = s.params) :
    CleanStream t f todo' fs :=
  ⟨by rw [hacc, List.append_assoc, h.acc], hraw, hparams ▸ h.clean⟩

/-- While bytes of the frame are left a pass takes one or two of them (R164, R167): at a sentinel it merges
rather than closes, and the accumulator is never so long that it splits. -/
theorem tickPass_of_todo_ne_nil (h : CleanStream s f todo fs) (htodo : todo ≠ []) :
    s.passCuts = [] ∧ ∃ todo', CleanStream s.tickPass f todo' fs := by
  have hraw : s.raw ≠ [] := by simp [h.raw, htodo]
  obtain ⟨hstep, -, hpass, rest, hr⟩ | ⟨-, hmerge, hacc, -, rest, hr⟩ |
    ⟨p, e, -, -, -, he, hlong, -⟩ | ⟨b, rest, hstep, -, -, hpass, hr⟩ := s.tickPass_cases hraw
  · obtain ⟨todo', rfl⟩ := h.exists_todo_of_sentinel htodo hr
    refine ⟨by rw [State.passCuts, hstep], todo', ?_⟩
    exact h.take_bytes (xs := [Config.sentinel0, Config.sentinel1]) (by simp [hpass, hr])
      (by simp [hpass, h.raw]) s.tickPass_params
  · obtain ⟨todo', hsent⟩ := h.exists_todo_of_sentinel htodo hr
    rw [h.mergeCond_of_todo hacc hsent] at hmerge
    cases hmerge
  · exact absurd (h.acc_length_le_of_explen he) (Nat.not_le.2 hlong)
  · obtain ⟨c, todo', rfl⟩ := List.exists_cons_of_ne_nil htodo
    refine ⟨by rw [State.passCuts, hstep], todo', ?_⟩
    exact h.take_bytes (xs := [c]) (by simp [hpass, h.raw]) (by simp [hpass, h.raw]) s.tickPass_params

/-- A whole frame is closed at the sentinel of the next one (R165): it is as long as expected, so step 2
does not merge. -/
theorem tickPass_of_todo_nil {g : List Byte} {gs : List (List Byte)}
    (h : CleanStream s f [] (g :: gs)) :
    s.passCuts = [(.close, f)] ∧ CleanStream s.tickPass g g gs := by
  obtain rfl : s.acc = f := (List.append_nil _).symm.trans h.acc
  have hraw : s.raw = (g :: gs).flatten := h.raw
  have hwf := h.wf List.mem_cons_self
  have hpos := length_pos_of_frameWf hwf
  have hmerge : s.mergeCond = false := by simp [State.mergeCond, explen_of_frameWf hwf, shorterThan]
  have hclose : s.closeCond = true := by
    simp only [State.closeCond, hraw, sentAtHead_flatten_cons (h.wf (g := g) (by simp)), hpos,
      decide_true, Bool.and_self]
  have hstep : s.tickStep = .close := by simp [State.tickStep, hmerge, hclose]
  have hpass : s.tickPass = s.tickClose := by rw [State.tickPass, hstep]
  refine ⟨by rw [State.passCuts, hstep], ?_⟩
  exact start (by rw [hpass, State.tickClose_acc]) (by rw [hpass, State.tickClose_raw, hraw])
    fun g' hg' => s.tickPass_params ▸ h.clean g' (List.mem_cons_of_mem _ hg')

/-- When the backlog is empty the last frame stands in the accumulator, whole. -/
theorem of_raw_nil (h : CleanStream s f todo fs) (hraw : s.raw = []) : s.acc = f ∧ fs = [] := by
  obtain ⟨rfl, hflat⟩ := List.append_eq_nil_iff.1 (h.raw.symm.trans hraw)
  refine ⟨(List.append_nil _).symm.trans h.acc, ?_⟩
  cases fs with
  | nil => rfl
  | cons g gs =>
    have hsent := sentAtHead_flatten_cons (h.wf (g := g) (by simp)) gs
    rw [hflat] at hsent
    cases hsent

/-- The loop of a tick closes every frame of the stream but the last, which it leaves in the accumulator
(R173). -/
theorem loopCuts_eq (h : CleanStream s f todo fs) {n : Nat} (hfuel : s.tickFuel ≤ n) :
    State.loopCuts n s ++ [(.close, (State.tickLoop n s).acc)] =
      (f :: fs).map (fun g => (TickStep.close, g)) := by
  induction n generalizing s f todo fs with
  | zero =>
    have hraw : s.raw = [] := List.length_eq_zero_iff.1 (by rw [State.tickFuel] at hfuel; omega)
    obtain ⟨rfl, rfl⟩ := h.of_raw_nil hraw
    rfl
  | succ n ih =>
    by_cases hraw : s.raw = []
    · obtain ⟨rfl, rfl⟩ := h.of_raw_nil hraw
      rw [State.loopCuts_nil _ hraw, State.tickLoop_nil _ _ hraw]
      rfl
    · have hless := s.tickFuel_tickPass hraw
      rw [State.loopCuts_succ _ hraw, State.tickLoop_succ _ _ hraw]
      match todo, fs with
      | b :: todo, _ =>
        obtain ⟨hcuts, todo', hnext⟩ := h.tickPass_of_todo_ne_nil (List.cons_ne_nil b todo)
        rw [hcuts, List.nil_append, ih hnext (by omega)]
      | [], [] => exact absurd h.raw hraw
      | [], g :: gs =>
        obtain ⟨hcuts, hnext⟩ := h.tickPass_of_todo_nil
        rw [hcuts, List.append_assoc, ih hnext (by omega)]
        rfl

end CleanStream

/-- A tick over clean frames cuts exactly at their ends: step 3 closes all but the last, step 6 flushes the
last (R173). -/
theorem State.tickCuts_flushed_of_clean {s : State} {fs : List (List Byte)} {last : List Byte}
    (hacc : s.acc = []) (hraw : s.raw = (fs ++ [last]).flatten)
    (hclean : ∀ g ∈ fs ++ [last], cleanFrame s.params g = true) :
    s.tickCuts = fs.map (fun g => (.close, g)) ∧ s.flushed = [last] := by
  obtain ⟨f, gs, hfs⟩ : ∃ f gs, fs ++ [last] = f :: gs :=
    List.exists_cons_of_ne_nil (by simp)
  have hcuts := (CleanStream.start hacc (hfs ▸ hraw) (hfs ▸ hclean)).loopCuts_eq le_rfl
  rw [← hfs, List.map_append, List.map_singleton] at hcuts
  obtain ⟨hcuts, hlast⟩ := List.append_inj' hcuts rfl
  have hflushed : (State.tickLoop s.tickFuel s).acc = last := by simpa using hlast
  have hpos := length_pos_of_frameWf (cleanFrame_iff.1 (hclean last (by simp))).1
  exact ⟨hcuts, by rw [State.flushed, hflushed, if_pos hpos]⟩

theorem State.tickCandidates_of_clean {s : State} {fs : List (List Byte)} (hne : fs ≠ [])
    (hacc : s.acc = []) (hraw : s.raw = fs.flatten)
    (hclean : ∀ g ∈ fs, cleanFrame s.params g = true) : s.tickCandidates = fs := by
  obtain ⟨init, last, rfl⟩ : ∃ init last, fs = init ++ [last] :=
    ⟨_, _, (List.dropLast_append_getLast hne).symm⟩
  obtain ⟨hcuts, hflushed⟩ := State.tickCuts_flushed_of_clean hacc hraw hclean
  simp [State.tickCandidates, hcuts, hflushed]

/-! ### From the line to the host -/

/-- Settles O56: the backlog keeps all the bytes that arrive, the tick cuts them into the frames, the queue
keeps all of these, and the pops take them from its front. -/
theorem cleanFramesReachTheHostInOrder : Obligations.CleanFramesReachTheHostInOrder := by
  rintro s fs k f ⟨-, hrawCap, hacc, -, -⟩ hraw hcfq hclean hbytes hframes hf
  have hne : fs ≠ [] := by
    rintro rfl
    simp at hf
  obtain ⟨t, hrx, htraw, htrxovf, -, htacc, htcfq, htparams⟩ :=
    backlogKeepsReceivedPrefix fs.flatten s hrawCap
  rw [hraw, List.nil_append, List.take_of_length_le hbytes] at htraw
  have htrxovf : t.rxovf = s.rxovf := by
    rw [htrxovf, hraw, List.length_nil, Nat.zero_add, decide_eq_false (Nat.not_lt.2 hbytes),
      Bool.or_false]
  have hcandidates : t.tickCandidates = fs :=
    State.tickCandidates_of_clean hne (htacc.trans hacc) htraw (htparams ▸ hclean)
  have hqueue : t.tick.cfq = fs := by
    rw [State.tick_cfq, hcandidates, htcfq, hcfq, htparams, afterPushes_nil_left_of_fits hframes]
  obtain ⟨u, hpops, hanswer, hucfq, hurxovf⟩ :=
    runOps_pops_succ k (t.tick.respond (t.tick.statusResponse false false))
  rw [State.respond_cfq, hqueue] at hanswer hucfq
  have htick : exec (.frmTick false false) t =
    .next (t.tick.respond (t.tick.statusResponse false false)) := rfl
  refine ⟨u, ?_, by rw [hanswer, hf]; rfl, ?_, hucfq⟩
  · rw [runOps_append_of_next hrx, runOps_cons_of_next htick, hpops]
  · rw [hurxovf, State.respond_rxovf, State.tick_rxovf, htrxovf]

end Sys2Proof.Machine
end

section
/-! A pass of the tick (spec/43_framer_tick.md R161 to R167): when each of its four actions applies, and what a
sequence of pushes leaves of the queue (R163). -/

namespace Sys2Proof.Machine

/-! ### The conditions of steps 2 to 4 -/

theorem longerThan_iff {n : Nat} {e : Option Nat} : longerThan n e = true ↔ ∃ k, e = some k ∧ k < n := by
  cases e <;> simp [longerThan]

theorem shorterThan_iff {n : Nat} {e : Option Nat} : shorterThan n e = true ↔ ∃ k, e = some k ∧ n < k := by
  cases e <;> simp [shorterThan]

theorem embeddedAt_eq_some_iff {a : List Byte} {p : Nat} :
    embeddedAt a = some p ↔
      1 ≤ p ∧ pairAt a p = true ∧ ∀ q, 1 ≤ q → q < p → pairAt a q = false := by
  constructor
  · intro h
    obtain ⟨hpos, -, hpair, hleast⟩ := embeddedAt_eq_some h
    exact ⟨hpos, hpair, hleast⟩
  · rintro ⟨hpos, hpair, hleast⟩
    have hbound := pairAt_bound hpair
    rw [embeddedAt, List.find?_range_eq_some]
    refine ⟨by simp [hpos, hpair], List.mem_range.2 (by omega), fun q hq => ?_⟩
    by_cases hq1 : 1 ≤ q <;> simp [hq1, hleast q, hq]

section
variable {s : State}

/-- A sentinel is at the head and the accumulator is not empty: what steps 2 and 3 share (R164, R165). -/
theorem State.closeCond_iff :
    s.closeCond = true ↔
      (∃ more, s.raw = Config.sentinel0 :: Config.sentinel1 :: more) ∧ s.acc ≠ [] := by
  rw [State.closeCond, Bool.and_eq_true, sentAtHead_iff, decide_eq_true_eq, List.length_pos_iff]

/-- What step 2 adds: the accumulator is short of its expected length and not over-long (R164). -/
theorem State.mergeCond_iff :
    s.mergeCond = true ↔
      s.closeCond = true ∧ (∃ e, explen s.acc = some e ∧ s.acc.length < e) ∧
        s.acc.length ≤ s.params.frameMaxLen := by
  simp only [State.mergeCond, State.closeCond, Bool.and_eq_true, shorterThan_iff, decide_eq_true_eq,
    and_assoc]

/-- Step 4 applies to an over-long accumulator that holds an embedded sentinel (R166). -/
theorem State.splitPoint_eq_some_iff {p : Nat} :
    s.splitPoint = some p ↔
      (∃ e, explen s.acc = some e ∧ e < s.acc.length) ∧ embeddedAt s.acc = some p := by
  rw [State.splitPoint, ← longerThan_iff, Option.ite_none_right_eq_some]

theorem State.splitPoint_eq_none_iff :
    s.splitPoint = none ↔
      ((∃ e, explen s.acc = some e ∧ e < s.acc.length) → embeddedAt s.acc = none) := by
  rw [State.splitPoint, ← longerThan_iff, ite_eq_right_iff]

/-! ### The action of a pass (R161) -/

theorem State.tickStep_of_mergeCond (h : s.mergeCond = true) : s.tickStep = .merge := if_pos h

theorem State.tickStep_of_closeCond (hmerge : ¬ s.mergeCond = true) (hclose : s.closeCond = true) :
    s.tickStep = .close := by
  rw [State.tickStep, if_neg hmerge, if_pos hclose]

/-- Where step 3 does not apply step 2 does not either. -/
theorem State.not_mergeCond_of_not_closeCond (h : ¬ s.closeCond = true) : ¬ s.mergeCond = true :=
  fun hmerge => h (State.mergeCond_iff.1 hmerge).1

theorem State.tickStep_of_splitPoint {p : Nat} (hclose : ¬ s.closeCond = true)
    (hsplit : s.splitPoint = some p) : s.tickStep = .split p := by
  rw [State.tickStep, if_neg (State.not_mergeCond_of_not_closeCond hclose), if_neg hclose, hsplit]

theorem State.tickStep_of_rest (hclose : ¬ s.closeCond = true) (hsplit : s.splitPoint = none) :
    s.tickStep = .append := by
  rw [State.tickStep, if_neg (State.not_mergeCond_of_not_closeCond hclose), if_neg hclose, hsplit]

end

/-- Settles O42: each of the four clauses states the condition of one action and the failing of those before
it. -/
theorem passDoesFirstApplicableStep : Obligations.PassDoesFirstApplicableStep := by
  intro s b rest hraw
  refine ⟨fun e more hsent hacc he hshort hmax => ?merge, fun more hsent hacc hmerge => ?close,
    fun e p hclose he hlong hp hp0 hp1 hleast => ?split, fun hclose hsplit => ?append⟩
  case merge =>
    have hcond : s.mergeCond = true :=
      State.mergeCond_iff.2 ⟨State.closeCond_iff.2 ⟨⟨more, hsent⟩, hacc⟩, ⟨e, he, hshort⟩, hmax⟩
    rw [State.tickPass, State.tickStep_of_mergeCond hcond, State.tickMerge, hsent]
    rfl
  case close =>
    have hcond : s.closeCond = true := State.closeCond_iff.2 ⟨⟨more, hsent⟩, hacc⟩
    rw [State.tickPass,
      State.tickStep_of_closeCond (fun hm => hmerge (State.mergeCond_iff.1 hm).2) hcond]
    rfl
  case split =>
    have hpair : embeddedAt s.acc = some p :=
      embeddedAt_eq_some_iff.2 ⟨hp, (pairAt_iff _ _).2 ⟨hp0, hp1⟩, fun q hq hqp =>
        Bool.eq_false_iff.2 fun hq' => hleast q hq hqp ((pairAt_iff _ _).1 hq')⟩
    rw [State.tickPass, State.tickStep_of_splitPoint (hclose ∘ State.closeCond_iff.1)
      (State.splitPoint_eq_some_iff.2 ⟨⟨e, he, hlong⟩, hpair⟩)]
    rfl
  case append =>
    have hpoint : s.splitPoint = none :=
      State.splitPoint_eq_none_iff.2 fun hlong => embeddedAt_none_of fun q hq =>
        Bool.eq_false_iff.2 fun hq' => hsplit ⟨hlong, q, hq, (pairAt_iff _ _).1 hq'⟩
    rw [State.tickPass, State.tickStep_of_rest (hclose ∘ State.closeCond_iff.1) hpoint,
      State.tickAppend, hraw]
    rfl

/-! ### PushFrame (R163) -/

theorem length_newest (cap : Nat) (q : List (List Byte)) : (newest cap q).length = min q.length cap := by
  rw [newest, List.length_drop]
  omega

theorem newest_suffix (cap : Nat) (q : List (List Byte)) : newest cap q <:+ q := List.drop_suffix _ _

theorem newest_of_length_le {cap : Nat} {q : List (List Byte)} (h : q.length ≤ cap) :
    newest cap q = q := by
  rw [newest, Nat.sub_eq_zero_of_le h, List.drop_zero]

theorem afterPushes_of_ne_nil {cap : Nat} {q cs : List (List Byte)} (h : cs ≠ []) :
    afterPushes cap q cs = newest cap (q ++ cs) :=
  if_neg h

/-- A queue within its capacity is not changed by applying the capacity once more (I3 of R29). -/
theorem afterPushes_of_length_le {cap : Nat} {q : List (List Byte)} (h : q.length ≤ cap)
    (cs : List (List Byte)) : afterPushes cap q cs = newest cap (q ++ cs) := by
  by_cases hcs : cs = []
  · rw [hcs, afterPushes_nil, List.append_nil, newest_of_length_le h]
  · exact afterPushes_of_ne_nil hcs

theorem State.foldl_pushFrame_cfq (fs : List (List Byte)) (s : State) :
    (fs.foldl State.pushFrame s).cfq = afterPushes s.params.fqCap s.cfq fs := by
  induction fs generalizing s with
  | nil => rfl
  | cons f fs ih =>
    rw [List.foldl_cons, ih, State.pushFrame_cfq, State.pushFrame_params,
      ← afterPushes_of_ne_nil (List.cons_ne_nil f []), ← afterPushes_append]
    rfl

/-- Settles O44: one push or several leave the newest frames of all. -/
theorem pushKeepsNewestFrames : Obligations.PushKeepsNewestFrames := by
  refine ⟨fun s f => ⟨?suffix, ?length, rfl⟩, fun s fs hfs => ?several⟩
  case suffix => exact newest_suffix _ _
  case length => rw [State.pushFrame_cfq, length_newest, List.length_append, List.length_singleton]
  case several =>
    rw [State.foldl_pushFrame_cfq, afterPushes_of_ne_nil hfs, length_newest, List.length_append]
    exact ⟨newest_suffix _ _, rfl⟩

end Sys2Proof.Machine
end

section
/-! The loop of the tick (spec/43_framer_tick.md R160, R168 to R171): its passes, its candidates pass by pass,
and what FRM.TICK leaves and answers. -/

namespace Sys2Proof.Machine

/-! ### The loop ends (R171) -/

/-- A pass takes bytes from `RAW`, or leaves `RAW` and shortens `ACC`. -/
theorem State.tickPass_decreases {s : State} (hraw : s.raw ≠ []) :
    s.tickPass.raw.length < s.raw.length ∨
      (s.tickPass.raw = s.raw ∧ s.tickPass.acc.length < s.acc.length) := by
  obtain ⟨-, -, hpass, rest, hr⟩ | ⟨-, -, hacc, hpass, -⟩ | ⟨p, e, -, -, hpass, -, -, hp⟩ |
    ⟨b, rest, -, -, -, hpass, hr⟩ := s.tickPass_cases hraw
  · exact .inl (by simp [hpass, hr])
  · exact .inr (by simpa [hpass] using List.length_pos_iff.2 hacc)
  · obtain ⟨hp1, hp2, -⟩ := embeddedAt_eq_some hp
    refine .inr ⟨by simp [hpass], ?_⟩
    rw [hpass, State.tickSplit_acc, List.length_drop]
    omega
  · exact .inl (by simp [hpass, hr])

/-- The fuelled loop makes passes while bytes are left, and no more than its fuel. -/
theorem State.tickLoop_eq_passes (n : Nat) (s : State) :
    ∃ k ≤ n, (∀ j < k, (State.passes j s).raw ≠ []) ∧ State.tickLoop n s = State.passes k s := by
  induction n generalizing s with
  | zero => exact ⟨0, le_rfl, nofun, rfl⟩
  | succ n ih =>
    by_cases hraw : s.raw = []
    · exact ⟨0, Nat.zero_le _, nofun, State.tickLoop_nil _ _ hraw⟩
    · obtain ⟨k, hk, hpasses, hloop⟩ := ih s.tickPass
      refine ⟨k + 1, Nat.succ_le_succ hk, fun j hj => ?_, (State.tickLoop_succ n s hraw).trans hloop⟩
      cases j with
      | zero => exact hraw
      | succ j => exact hpasses j (Nat.lt_of_succ_lt_succ hj)

/-- Settles O43: the fuel of the tick is enough for its loop to use up the backlog, and is twice its length
when `ACC` starts empty. -/
theorem tickLoopEndsWithinTwiceTheBacklog : Obligations.TickLoopEndsWithinTwiceTheBacklog := by
  refine ⟨fun s hraw => State.tickPass_decreases hraw, fun s => ?_⟩
  obtain ⟨k, hk, hpasses, hloop⟩ := State.tickLoop_eq_passes s.tickFuel s
  refine ⟨k, hpasses, hloop ▸ State.tickLoop_raw le_rfl, by rw [State.tick, hloop], fun hacc => ?_⟩
  simpa [State.tickFuel, hacc] using hk

/-- What each pass keeps holds after any number of passes of the loop. -/
theorem State.passes_induction {motive : State → Prop}
    (pass : ∀ s : State, s.raw ≠ [] → motive s → motive s.tickPass) (k : Nat) {s : State}
    (hraw : ∀ j < k, (State.passes j s).raw ≠ []) (start : motive s) :
    motive (State.passes k s) := by
  induction k generalizing s with
  | zero => exact start
  | succ k ih =>
    exact ih (fun j hj => hraw (j + 1) (Nat.succ_lt_succ hj)) (pass s (hraw 0 k.succ_pos) start)

/-- Induction along the passes of a tick, from the last back to the first. -/
theorem State.tick_induction {motive : State → Prop} (nil : ∀ s : State, s.raw = [] → motive s)
    (pass : ∀ s : State, s.raw ≠ [] → motive s.tickPass → motive s) (s : State) : motive s := by
  by_cases hraw : s.raw = []
  · exact nil s hraw
  · have hless := s.tickFuel_tickPass hraw
    exact pass s hraw (State.tick_induction nil pass s.tickPass)
termination_by s.tickFuel
decreasing_by omega

/-! ### The candidates, pass by pass -/

/-- Fuel beyond what the loop can use changes nothing (log 14). -/
theorem State.loop_eq_of_tickFuel_le {s : State} {m n : Nat} (hm : s.tickFuel ≤ m)
    (hn : s.tickFuel ≤ n) :
    State.loopCuts m s = State.loopCuts n s ∧ State.tickLoop m s = State.tickLoop n s := by
  induction s using State.tick_induction generalizing m n with
  | nil s hraw => simp only [State.loopCuts_nil _ hraw, State.tickLoop_nil _ _ hraw, and_self]
  | pass s hraw ih =>
    have hless := s.tickFuel_tickPass hraw
    obtain ⟨m, rfl⟩ := Nat.exists_eq_add_one_of_ne_zero (n := m) (by omega)
    obtain ⟨n, rfl⟩ := Nat.exists_eq_add_one_of_ne_zero (n := n) (by omega)
    obtain ⟨hcuts, hloop⟩ := ih (m := m) (n := n) (by omega) (by omega)
    simp only [State.loopCuts_succ _ hraw, State.tickLoop_succ _ _ hraw, hcuts, hloop, and_self]

section
variable {s : State}

theorem State.tickCandidates_of_raw_nil (h : s.raw = []) :
    s.tickCandidates = if 0 < s.acc.length then [s.acc] else [] := by
  rw [State.tickCandidates, State.tickCuts, State.flushed, State.loopCuts_nil _ h,
    State.tickLoop_nil _ _ h]
  rfl

theorem State.tickCandidates_of_raw_ne_nil (h : s.raw ≠ []) :
    s.tickCandidates = s.passCuts.map (·.2) ++ s.tickPass.tickCandidates := by
  have hless := s.tickFuel_tickPass h
  obtain ⟨n, hn⟩ := Nat.exists_eq_add_one_of_ne_zero (n := s.tickFuel) (by omega)
  obtain ⟨hcuts, hloop⟩ := s.tickPass.loop_eq_of_tickFuel_le (m := n) (by omega) le_rfl
  rw [State.tickCandidates, State.tickCuts, State.flushed, hn, State.loopCuts_succ _ h,
    State.tickLoop_succ _ _ h, hcuts, hloop, List.map_append, List.append_assoc]
  rfl

theorem State.raw_ne_nil_of_closeCond (h : s.closeCond = true) : s.raw ≠ [] := by
  obtain ⟨⟨more, hraw⟩, -⟩ := State.closeCond_iff.1 h
  simp [hraw]

theorem State.tickCandidates_of_mergeCond (h : s.mergeCond = true) :
    s.tickCandidates = s.tickMerge.tickCandidates := by
  rw [State.tickCandidates_of_raw_ne_nil (State.raw_ne_nil_of_closeCond (State.mergeCond_iff.1 h).1),
    State.passCuts, State.tickPass, State.tickStep_of_mergeCond h]
  rfl

theorem State.tickCandidates_of_closeCond (hmerge : ¬ s.mergeCond = true) (hclose : s.closeCond = true) :
    s.tickCandidates = s.acc :: s.tickClose.tickCandidates := by
  rw [State.tickCandidates_of_raw_ne_nil (State.raw_ne_nil_of_closeCond hclose), State.passCuts,
    State.tickPass, State.tickStep_of_closeCond hmerge hclose]
  rfl

theorem State.tickCandidates_of_splitPoint {p : Nat} (hraw : s.raw ≠ [])
    (hclose : ¬ s.closeCond = true) (hsplit : s.splitPoint = some p) :
    s.tickCandidates = s.acc.take p :: (s.tickSplit p).tickCandidates := by
  rw [State.tickCandidates_of_raw_ne_nil hraw, State.passCuts, State.tickPass,
    State.tickStep_of_splitPoint hclose hsplit]
  rfl

theorem State.tickCandidates_of_rest (hraw : s.raw ≠ []) (hclose : ¬ s.closeCond = true)
    (hsplit : s.splitPoint = none) : s.tickCandidates = s.tickAppend.tickCandidates := by
  rw [State.tickCandidates_of_raw_ne_nil hraw, State.passCuts, State.tickPass,
    State.tickStep_of_rest hclose hsplit]
  rfl

/-- A pass only moves bytes: to `PushFrame`, and from `RAW` to `ACC` (R170). -/
theorem State.tickPass_conserves (h : s.raw ≠ []) :
    (s.passCuts.map (·.2)).flatten ++ (s.tickPass.acc ++ s.tickPass.raw) = s.acc ++ s.raw := by
  obtain ⟨hstep, -, hpass, rest, hr⟩ | ⟨hstep, -, -, hpass, -⟩ | ⟨p, e, hstep, -, hpass, -⟩ |
    ⟨b, rest, hstep, -, -, hpass, hr⟩ := s.tickPass_cases h
  · simp [State.passCuts, hstep, hpass]
  · simp [State.passCuts, hstep, hpass]
  · simp [State.passCuts, hstep, hpass, ← List.append_assoc]
  · simp [State.passCuts, hstep, hpass, hr]

/-- No pass hands over an empty piece (R163). -/
theorem State.passCuts_ne_nil (h : s.raw ≠ []) : ∀ c ∈ s.passCuts.map (·.2), c ≠ [] := by
  obtain ⟨hstep, -⟩ | ⟨hstep, -, hacc, -⟩ | ⟨p, e, hstep, -, -, -, -, hp⟩ | ⟨b, rest, hstep, -⟩ :=
    s.tickPass_cases h
  · simp [State.passCuts, hstep]
  · simpa [State.passCuts, hstep] using hacc
  · obtain ⟨hp1, hp2, -⟩ := embeddedAt_eq_some hp
    have hpos : 0 < (s.acc.take p).length := by rw [List.length_take]; omega
    simpa [State.passCuts, hstep] using List.length_pos_iff.1 hpos
  · simp [State.passCuts, hstep]

end

/-- The candidates of a tick joined in order are the bytes of `ACC` and of `RAW` (R170). -/
theorem State.flatten_tickCandidates (s : State) : s.tickCandidates.flatten = s.acc ++ s.raw := by
  induction s using State.tick_induction with
  | nil s hraw =>
    rw [State.tickCandidates_of_raw_nil hraw, hraw]
    cases s.acc <;> simp
  | pass s hraw ih =>
    rw [State.tickCandidates_of_raw_ne_nil hraw, List.flatten_append, ih, State.tickPass_conserves hraw]

theorem State.ne_nil_of_mem_tickCandidates {s : State} {c : List Byte} (hc : c ∈ s.tickCandidates) :
    c ≠ [] := by
  induction s using State.tick_induction with
  | nil s hraw =>
    rw [State.tickCandidates_of_raw_nil hraw, List.mem_ite_nil_right, List.mem_singleton] at hc
    exact hc.2 ▸ List.length_pos_iff.1 hc.1
  | pass s hraw ih =>
    rw [State.tickCandidates_of_raw_ne_nil hraw, List.mem_append] at hc
    exact hc.elim (State.passCuts_ne_nil hraw c) ih

/-! ### The operation -/

/-- What FRM.TICK leaves and answers (R160). -/
theorem exec_frmTick (rx cs : Bool) (s : State) :
    exec (.frmTick rx cs) s = .next (s.tick.respond (s.tick.statusResponse rx cs)) := rfl

/-- Settles O41: the loop and the flush leave `RAW` and `ACC` empty, so the status is that of the queue and
the flags alone. -/
theorem tickResult : Obligations.TickResult := by
  refine ⟨by decide, fun rx cs s => ⟨_, exec_frmTick rx cs s, s.tick_raw, s.tick_acc, s.tick_crc,
    s.tick_rxovf, ?around, s.tick_cfq, ?answer⟩⟩
  case around =>
    have hround := s.tick.respond_sameAround (s.tick.statusResponse rx cs)
    simpa [SameAround] using hround
  case answer =>
    rw [State.answer_respond, State.statusResponse, State.sniff_eq]
    simp

/-- Settles O45: with nothing to take in there is no pass and no flush, and that is what the first of two
ticks leaves (the second clause is one of O40). -/
theorem emptyTickChangesNothing : Obligations.EmptyTickChangesNothing := by
  obtain ⟨-, hsecondTick, -⟩ := readsAreIdempotentAndPopIsNot
  refine ⟨fun rx cs s hraw hacc => ?_, hsecondTick⟩
  rw [exec_frmTick, State.tick_of_empty hraw hacc]

/-- Settles O46, from the conservation of bytes by each pass. -/
theorem tickConservesBytes : Obligations.TickConservesBytes := by
  intro s hacc hcap
  have hflat : s.tickCandidates.flatten = s.raw := by rw [State.flatten_tickCandidates, hacc]; rfl
  refine ⟨hflat, fun c => State.ne_nil_of_mem_tickCandidates, ⟨fun h => ?noBytes, fun h => ?noCandidate⟩,
    fun rx cs => ⟨_, exec_frmTick rx cs s, ?queue⟩⟩
  case noBytes => rw [← hflat, h]; rfl
  case noCandidate => rw [State.tickCandidates_of_raw_nil h, hacc]; rfl
  case queue => rw [State.respond_cfq, State.tick_cfq, afterPushes_of_length_le hcap]

end Sys2Proof.Machine
end

section
/-! How a tick cuts (spec/43_framer_tick.md R172 to R174): where embedded sentinels come from, clean streams,
and a frame cut short and interrupted by the next. -/

namespace Sys2Proof.Machine

/-! ### The sentinel pair in a sequence put together -/

theorem pairAt_drop (a : List Byte) (q p : Nat) : pairAt (a.drop q) p = pairAt a (p + q) := by
  simp only [pairAt, List.getElem?_drop]
  congr 4 <;> omega

theorem pairAt_append_of_lt {a : List Byte} {p : Nat} (h : p + 1 < a.length) (x : List Byte) :
    pairAt (a ++ x) p = pairAt a p := by
  rw [pairAt, pairAt, List.getElem?_append_left h, List.getElem?_append_left (by omega)]

theorem pairAt_append_length_add (a x : List Byte) (i : Nat) :
    pairAt (a ++ x) (a.length + i) = pairAt x i := by
  rw [pairAt, pairAt, List.getElem?_append_right (by omega), List.getElem?_append_right (by omega)]
  congr 4 <;> omega

/-- No pair ends with a first sentinel byte. -/
theorem pairAt_append_sentinel0_eq_false {a x : List Byte} {p : Nat} (h : p + 1 = a.length) :
    pairAt (a ++ Config.sentinel0 :: x) p = false := by
  rw [Bool.eq_false_iff, ne_eq, pairAt_iff, h, List.getElem?_append_right le_rfl]
  simp

/-! ### Embedded sentinels come from merges (R172) -/

/-- No sentinel straddles the end of the accumulator, but for one at index 0: its first byte is appended only
where its second is not next. -/
def State.SeamFree (s : State) : Prop :=
  ∀ p, 1 ≤ p → p + 1 = s.acc.length → pairAt (s.acc ++ s.raw) p = false

theorem State.SeamFree.of_acc_nil {s : State} (h : s.acc = []) : s.SeamFree := by
  intro p _ hp
  simp [h] at hp

theorem State.SeamFree.tickPass {s : State} (hraw : s.raw ≠ []) (h : s.SeamFree) :
    s.tickPass.SeamFree := by
  intro p hpos hend
  obtain ⟨-, -, hpass, rest, hr⟩ | ⟨-, -, -, hpass, -⟩ | ⟨q, e, -, -, hpass, -, -, hq⟩ |
    ⟨b, rest, -, hclose, -, hpass, hr⟩ := s.tickPass_cases hraw
  · rw [hpass, State.tickMerge_acc, hr] at hend
    obtain rfl : p = s.acc.length + 1 := by simpa using hend
    rw [hpass, State.tickMerge_acc, State.tickMerge_raw, List.append_assoc, List.take_append_drop, hr,
      pairAt_append_length_add]
    simp [pairAt]
  · simp [hpass] at hend
  · obtain ⟨-, hq2, -⟩ := embeddedAt_eq_some hq
    rw [hpass, State.tickSplit_acc, List.length_drop] at hend
    rw [hpass, State.tickSplit_acc, State.tickSplit_raw,
      ← List.drop_append_of_le_length (by omega), pairAt_drop]
    exact h (p + q) (by omega) (by omega)
  · rw [hpass, State.tickAppend_acc, hr] at hend
    obtain rfl : p = s.acc.length := by simpa using hend
    rw [hpass, State.tickAppend_acc, State.tickAppend_raw, List.append_assoc, List.take_append_drop]
    refine (pairAt_append_length_add _ _ 0).trans (Bool.eq_false_iff.2 fun hsent => ?_)
    have hclosed : s.closeCond = true :=
      State.closeCond_iff.2 ⟨(sentAtHead_iff _).1 hsent, List.length_pos_iff.1 hpos⟩
    rw [hclosed] at hclose
    cases hclose

/-- Settles O47: by the actions of a pass; an append completes no pair, since none straddles the end of the
accumulator. -/
theorem embeddedSentinelsComeFromMerge : Obligations.EmbeddedSentinelsComeFromMerge := by
  intro s k p hacc hraw hpos hpair
  have hseam : (State.passes k s).SeamFree :=
    State.passes_induction (fun _ => State.SeamFree.tickPass) k (fun j hj => hraw j hj.le)
      (State.SeamFree.of_acc_nil hacc)
  specialize hraw k le_rfl
  generalize State.passes k s = t at hraw hpair hseam ⊢
  have hbound := pairAt_bound hpair
  obtain ⟨hstep, -, hpass, rest, hr⟩ | ⟨hstep, -, -, hpass, -⟩ | ⟨q, e, hstep, -, hpass, -⟩ |
    ⟨b, rest, hstep, -, -, hpass, hr⟩ := t.tickPass_cases hraw <;> rw [hstep]
  case inl =>
    simp only [hpass, State.tickMerge_acc, hr, List.take_succ_cons, List.take_zero,
      List.length_append, List.length_cons, List.length_nil] at hpair hbound
    obtain hlt | hend | heq : p + 1 < t.acc.length ∨ p + 1 = t.acc.length ∨ p = t.acc.length := by omega
    · exact .inl (pairAt_append_of_lt hlt _ ▸ hpair)
    · exact absurd hpair (by simp [pairAt_append_sentinel0_eq_false hend])
    · exact .inr heq
  case inr.inl => simp [hpass] at hbound
  case inr.inr.inl => rwa [hpass, State.tickSplit_acc, pairAt_drop] at hpair
  case inr.inr.inr =>
    simp only [hpass, State.tickAppend_acc, hr, List.take_succ_cons, List.take_zero,
      List.length_append, List.length_cons, List.length_nil] at hpair hbound
    obtain hlt | hend : p + 1 < t.acc.length ∨ p + 1 = t.acc.length := by omega
    · exact pairAt_append_of_lt hlt _ ▸ hpair
    · have hnone := hseam p hpos hend
      rw [hr, List.append_cons, pairAt_append_of_lt (by simp [hend])] at hnone
      rw [hnone] at hpair
      cases hpair

/-! ### Clean streams (R173) -/

/-- The hypotheses of R173 on one frame, written out. -/
theorem cleanFrame_of_bytes {p : Params} {f : List Byte} (h0 : f[0]? = some Config.sentinel0)
    (h1 : f[1]? = some Config.sentinel1) (hlen : ∃ len : Byte, f[3]? = some len ∧ f.length = 6 + len.toNat)
    (hmax : f.length ≤ p.frameMaxLen)
    (h2 : ¬ (f[2]? = some Config.sentinel0 ∧ f[3]? = some Config.sentinel1))
    (h3 : ¬ (f[3]? = some Config.sentinel0 ∧ f[4]? = some Config.sentinel1)) :
    cleanFrame p f = true :=
  cleanFrame_iff.2 ⟨frameWf_iff.2 ⟨h0, h1, hlen⟩, hmax,
    Bool.eq_false_iff.2 fun h => h2 ((pairAt_iff _ _).1 h),
    Bool.eq_false_iff.2 fun h => h3 ((pairAt_iff _ _).1 h)⟩

/-- A split that the trace shows handed over a piece. -/
theorem State.exists_cut_of_split_mem_loopTrace {n p : Nat} {s : State}
    (h : TickStep.split p ∈ State.loopTrace n s) : ∃ c, (TickStep.split p, c) ∈ State.loopCuts n s := by
  induction n generalizing s with
  | zero => cases h
  | succ n ih =>
    by_cases hraw : s.raw = []
    · rw [State.loopTrace, if_pos hraw] at h
      cases h
    · rw [State.loopTrace, if_neg hraw, List.mem_cons] at h
      rw [State.loopCuts_succ _ hraw]
      obtain hstep | hlater := h
      · exact ⟨s.acc.take p, List.mem_append_left _ (by simp [State.passCuts, ← hstep])⟩
      · obtain ⟨c, hc⟩ := ih hlater
        exact ⟨c, List.mem_append_right _ hc⟩

/-- Settles O48, from the cuts of a tick over clean frames: a split would be one of them. -/
theorem cleanStreamIsCutIntoItsFrames : Obligations.CleanStreamIsCutIntoItsFrames := by
  intro s fs last hacc hbytes hraw
  have hclean : ∀ f ∈ fs ++ [last], cleanFrame s.params f = true := by
    intro f hf
    obtain ⟨h0, h1, hlen, hmax, h2, h3⟩ := hbytes f hf
    exact cleanFrame_of_bytes h0 h1 hlen hmax h2 h3
  have hne : fs ++ [last] ≠ [] := List.append_ne_nil_of_right_ne_nil _ (List.cons_ne_nil _ _)
  obtain ⟨hcuts, hflushed⟩ := State.tickCuts_flushed_of_clean hacc hraw hclean
  have hcandidates := State.tickCandidates_of_clean hne hacc hraw hclean
  refine ⟨hcuts, hflushed, hcandidates, fun p hp => ?neverSplits,
    fun rx cs => ⟨_, exec_frmTick rx cs s, ?queue⟩⟩
  case neverSplits =>
    obtain ⟨c, hc⟩ := State.exists_cut_of_split_mem_loopTrace hp
    have hcut : (TickStep.split p, c) ∈ fs.map (fun f => (TickStep.close, f)) := hcuts ▸ hc
    simp at hcut
  case queue => rw [State.respond_cfq, State.tick_cfq, hcandidates, afterPushes_of_ne_nil hne]

/-- What a tick hands over from the middle of a clean stream on. -/
theorem CleanStream.tickCandidates {s : State} {f todo : List Byte} {fs : List (List Byte)}
    (h : CleanStream s f todo fs) : s.tickCandidates = f :: fs := by
  have hcuts : s.tickCuts.map (·.2) ++ [(State.tickLoop s.tickFuel s).acc] = f :: fs := by
    simpa [State.tickCuts, Function.comp_def] using
      congrArg (List.map Prod.snd) (h.loopCuts_eq (n := s.tickFuel) le_rfl)
  have hlast : (State.tickLoop s.tickFuel s).acc ∈ f :: fs := hcuts ▸ by simp
  rw [State.tickCandidates, State.flushed, if_pos (length_pos_of_frameWf (h.wf hlast)), hcuts]

end Sys2Proof.Machine
end

section
/-! A frame cut short and interrupted by the next one (spec/43_framer_tick.md R174). -/

namespace Sys2Proof.Machine

/-! ### A run of appends (R167) -/

/-- The tick from `s` comes, handing over nothing on the way, to a state with `acc` in the accumulator and `raw`
in the backlog. -/
def State.ComesTo (s : State) (acc raw : List Byte) : Prop :=
  ∃ t : State, t.acc = acc ∧ t.raw = raw ∧ t.params = s.params ∧ s.tickCandidates = t.tickCandidates

/-- While no sentinel comes to the head and the accumulator does not outgrow its expected length, every pass
appends a byte. -/
theorem State.comesTo_of_appends {s : State} {xs ys : List Byte} (hraw : s.raw = xs ++ ys)
    (hsent : ∀ i < xs.length, s.acc ++ xs.take i ≠ [] → pairAt s.raw i = false)
    (hlen : ∀ i < xs.length, ∀ e, explen (s.acc ++ xs.take i) = some e → s.acc.length + i ≤ e) :
    s.ComesTo (s.acc ++ xs) ys := by
  induction xs generalizing s with
  | nil => exact ⟨s, (List.append_nil _).symm, hraw, rfl, rfl⟩
  | cons x xs ih =>
    have hne : s.raw ≠ [] := by simp [hraw]
    have hclose : ¬ s.closeCond = true := fun h => by
      obtain ⟨hhead, hacc⟩ := State.closeCond_iff.1 h
      have hnone := hsent 0 (by simp) (by simpa using hacc)
      exact Bool.eq_false_iff.1 hnone ((sentAtHead_iff _).2 hhead)
    have hsplit : s.splitPoint = none := State.splitPoint_eq_none_iff.2 fun ⟨e, he, hlong⟩ =>
      absurd (hlen 0 (by simp) e (by simpa using he)) (by omega)
    have hacc' : s.tickAppend.acc = s.acc ++ [x] := by simp [hraw]
    have hraw' : s.tickAppend.raw = xs ++ ys := by simp [hraw]
    have hrun := ih hraw' (fun i hi _ => ?sent) (fun i hi e he => ?len)
    case sent =>
      have hnone := hsent (i + 1) (Nat.succ_lt_succ hi) (by simp)
      rw [hraw, Nat.add_comm] at hnone
      exact hraw' ▸ (pairAt_append_length_add [x] (xs ++ ys) i).symm.trans hnone
    case len =>
      rw [hacc', ← List.append_cons] at he
      have hle := hlen (i + 1) (Nat.succ_lt_succ hi) e he
      rw [hacc', List.length_append, List.length_singleton]
      omega
    obtain ⟨t, htacc, htraw, htparams, hsame⟩ := hrun
    exact ⟨t, by rw [htacc, hacc', ← List.append_cons], htraw, htparams,
      (State.tickCandidates_of_rest hne hclose hsplit).trans hsame⟩

/-! ### A fragment of a frame, and the sentinel that interrupts it -/

/-- A fragment of a frame that holds its header expects the length of the whole frame. -/
theorem explen_prefix {pre f : List Byte} (hwf : Frame.wf f = true) (hpre : pre <+: f)
    (hlen : 4 ≤ pre.length) : explen pre = some f.length := by
  obtain ⟨x, rfl⟩ := hpre
  rw [← explen_append hlen x, explen_of_frameWf hwf]

section
variable {pre : List Byte}

theorem pairAt_append_sentinel (hno : ∀ q, 1 ≤ q → pairAt pre q = false) (x : List Byte) {q : Nat}
    (hpos : 1 ≤ q) (hlt : q < pre.length) : pairAt (pre ++ Config.sentinel0 :: x) q = false := by
  obtain hinside | hend : q + 1 < pre.length ∨ q + 1 = pre.length := by omega
  · rw [pairAt_append_of_lt hinside, hno q hpos]
  · exact pairAt_append_sentinel0_eq_false hend

/-- The first embedded sentinel is the one that interrupted the fragment. -/
theorem embeddedAt_append_sentinel (hne : pre ≠ []) (hno : ∀ q, 1 ≤ q → pairAt pre q = false)
    (x : List Byte) :
    embeddedAt (pre ++ Config.sentinel0 :: Config.sentinel1 :: x) = some pre.length :=
  embeddedAt_eq_some_iff.2 ⟨List.length_pos_iff.2 hne,
    (pairAt_append_length_add pre _ 0).trans (by simp [pairAt]),
    fun _ hpos hlt => pairAt_append_sentinel hno _ hpos hlt⟩

variable {s : State} {f g : List Byte}

/-- The fragment is appended byte by byte until the interrupting sentinel comes to the head. -/
theorem State.comesTo_of_prefix (hwf : Frame.wf f = true) (hpre : pre <+: f)
    (hno : ∀ q, 1 ≤ q → pairAt pre q = false) (hacc : s.acc = [])
    (hraw : s.raw = pre ++ Config.sentinel0 :: g) : s.ComesTo pre (Config.sentinel0 :: g) := by
  have happends := State.comesTo_of_appends hraw (fun i hi hne => ?sent) (fun i hi e he => ?len)
  case sent =>
    have hpos : 1 ≤ i := Nat.one_le_iff_ne_zero.2 fun h => hne (by simp [hacc, h])
    exact hraw ▸ pairAt_append_sentinel hno g hpos hi
  case len =>
    rw [hacc, List.nil_append] at he
    have hprefix : pre.take i <+: f := (List.take_prefix i pre).trans hpre
    have hfull := explen_prefix hwf hprefix (headerLen_le_of_explen he)
    have hle := hprefix.length_le
    rw [List.length_take_of_le hi.le] at hle
    obtain rfl := Option.some.inj (hfull.symm.trans he)
    simpa [hacc] using hle
  rwa [hacc, List.nil_append] at happends

/-- A fragment without a whole header has no expected length, so it is closed (R165). -/
theorem State.tickCandidates_of_interrupted_short (hne : pre ≠ []) (hshort : pre.length < 4)
    (hacc : s.acc = pre) (hraw : s.raw = Config.sentinel0 :: Config.sentinel1 :: g) :
    s.tickCandidates = pre :: s.tickClose.tickCandidates := by
  have hclose : s.closeCond = true := State.closeCond_iff.2 ⟨⟨g, hraw⟩, hacc ▸ hne⟩
  have hmerge : ¬ s.mergeCond = true := fun h => by
    obtain ⟨-, ⟨e, he, -⟩, -⟩ := State.mergeCond_iff.1 h
    have hheader : 4 ≤ s.acc.length := headerLen_le_of_explen he
    rw [hacc] at hheader
    omega
  rw [State.tickCandidates_of_closeCond hmerge hclose, hacc]

/-- With its header in hand a fragment takes in the interrupting sentinel by a merge, and then `k` bytes of the
second frame, for as long as the accumulator is not longer than the first (R164, R167). -/
theorem State.comesTo_of_interrupted (hwf : Frame.wf f = true) (hpre : pre <+: f)
    (hheader : 4 ≤ pre.length) (hmax : f.length ≤ s.params.frameMaxLen) (hno : ∀ i, pairAt g i = false)
    {k : Nat} (hk : pre.length + k + 1 ≤ f.length) (hacc : s.acc = pre)
    (hraw : s.raw = Config.sentinel0 :: Config.sentinel1 :: g) :
    s.ComesTo (pre ++ Config.sentinel0 :: Config.sentinel1 :: g.take k) (g.drop k) := by
  have hne : pre ≠ [] := List.length_pos_iff.1 (by omega)
  have hmerge : s.mergeCond = true := State.mergeCond_iff.2
    ⟨State.closeCond_iff.2 ⟨⟨g, hraw⟩, hacc ▸ hne⟩,
      ⟨f.length, hacc ▸ explen_prefix hwf hpre hheader, by rw [hacc]; omega⟩, by rw [hacc]; omega⟩
  have hraw' : s.tickMerge.raw = g := by simp [hraw]
  have hacc' : s.tickMerge.acc = pre ++ [Config.sentinel0, Config.sentinel1] := by simp [hraw, hacc]
  have hrun := State.comesTo_of_appends
    (hraw'.trans (List.take_append_drop k g).symm) (fun i _ _ => hraw' ▸ hno i) (fun i hi e he => ?len)
  case len =>
    rw [hacc', List.append_assoc, explen_append hheader, explen_prefix hwf hpre hheader] at he
    obtain rfl := Option.some.inj he
    rw [List.length_take] at hi
    rw [hacc', List.length_append, List.length_cons, List.length_singleton]
    omega
  obtain ⟨t, htacc, htraw, htparams, hsame⟩ := hrun
  exact ⟨t, by rw [htacc, hacc', List.append_assoc]; rfl, htraw, htparams,
    (State.tickCandidates_of_mergeCond hmerge).trans hsame⟩

/-- When the accumulator has outgrown the first frame and bytes are left, the split falls at the sentinel that
interrupted the fragment (R166). -/
theorem State.tickCandidates_of_outgrown (hwf : Frame.wf f = true) (hpre : pre <+: f)
    (hheader : 4 ≤ pre.length) (hno : ∀ q, 1 ≤ q → pairAt pre q = false)
    (hnone : sentAtHead s.raw = false) (hraw : s.raw ≠ [])
    (hacc : s.acc = pre ++ Config.sentinel0 :: Config.sentinel1 :: g) (hlong : f.length < s.acc.length) :
    s.tickCandidates = pre :: (s.tickSplit pre.length).tickCandidates := by
  have hne : pre ≠ [] := List.length_pos_iff.1 (by omega)
  have hclose : ¬ s.closeCond = true := by simp [State.closeCond, hnone]
  have hexplen : explen s.acc = some f.length := by
    rw [hacc, explen_append hheader, explen_prefix hwf hpre hheader]
  have hsplit : s.splitPoint = some pre.length := State.splitPoint_eq_some_iff.2
    ⟨⟨f.length, hexplen, hlong⟩, hacc ▸ embeddedAt_append_sentinel hne hno g⟩
  rw [State.tickCandidates_of_splitPoint hraw hclose hsplit, hacc, List.take_left]

end

/-- Settles O49: the fragment is taken in; without its header it is closed at the interrupting sentinel (a);
with it the sentinel is merged, and comes apart by a split if bytes are left when the accumulator has
outgrown the first frame (b), and not otherwise (c). -/
theorem truncatedFrameThenFrame : Obligations.TruncatedFrameThenFrame := by
  intro s f1 f2 m hacc hclean1 hclean2 hm hmlt hno1 hno2 hraw
  obtain ⟨hwf1, hmax, -⟩ := cleanFrame_iff.1 hclean1
  obtain ⟨g, rfl⟩ : ∃ g, f2 = Config.sentinel0 :: Config.sentinel1 :: g := by
    obtain ⟨hwf2, -⟩ := cleanFrame_iff.1 hclean2
    obtain ⟨h0, h1, -⟩ := frameWf_iff.1 hwf2
    exact (sentAtHead_iff f2).1 ((pairAt_iff f2 0).2 ⟨h0, h1⟩)
  have hno : ∀ q, 1 ≤ q → pairAt (f1.take m) q = false :=
    embeddedAt_eq_none (Option.isNone_iff_eq_none.1 hno1)
  have hnog : ∀ i, pairAt g i = false := fun i =>
    (pairAt_append_length_add [Config.sentinel0, Config.sentinel1] g i).symm.trans
      (embeddedAt_eq_none (Option.isNone_iff_eq_none.1 hno2) _ (by simp; omega))
  have hpre : f1.take m <+: f1 := List.take_prefix m f1
  have hlen : (f1.take m).length = m := List.length_take_of_le hmlt.le
  obtain ⟨t, htacc, htraw, htparams, hsame⟩ := State.comesTo_of_prefix hwf1 hpre hno hacc hraw
  rw [hsame]
  rw [← htparams] at hmax hclean2
  rw [List.length_cons, List.length_cons]
  refine ⟨fun hshort => ?a, fun hheader hlong => ?b, fun hheader hfits => ?c⟩
  case a =>
    have hne : f1.take m ≠ [] := List.length_pos_iff.1 (by omega)
    have hrest : t.tickClose.tickCandidates = [Config.sentinel0 :: Config.sentinel1 :: g] :=
      State.tickCandidates_of_clean (List.cons_ne_nil _ []) t.tickClose_acc (by simpa using htraw)
        (by simpa using hclean2)
    rw [State.tickCandidates_of_interrupted_short hne (by omega) htacc htraw, hrest]
  case b =>
    obtain ⟨u, huacc, huraw, huparams, hsame⟩ := State.comesTo_of_interrupted hwf1 hpre (by omega) hmax
      hnog (k := f1.length - m - 1) (by omega) htacc htraw
    have hlong' : f1.length < u.acc.length := by
      rw [huacc, List.length_append, hlen, List.length_cons, List.length_cons, List.length_take]
      omega
    have hleft : u.raw ≠ [] := by
      rw [huraw, ← List.length_pos_iff, List.length_drop]
      omega
    have hnone : sentAtHead u.raw = false := huraw ▸ (pairAt_drop g _ 0).trans (hnog _)
    have hrest : CleanStream (u.tickSplit (f1.take m).length) (Config.sentinel0 :: Config.sentinel1 :: g)
        (g.drop (f1.length - m - 1)) [] :=
      ⟨by simp [huacc], by simp [huraw], by simpa [huparams] using hclean2⟩
    rw [hsame, State.tickCandidates_of_outgrown hwf1 hpre (by omega) hno hnone hleft huacc hlong',
      hrest.tickCandidates]
  case c =>
    obtain ⟨u, huacc, huraw, -, hsame⟩ := State.comesTo_of_interrupted hwf1 hpre (by omega) hmax
      hnog (k := g.length) (by omega) htacc htraw
    rw [hsame, State.tickCandidates_of_raw_nil (by simpa using huraw), huacc]
    simp

end Sys2Proof.Machine
end

section
/-! Where the ticks fall (spec/43_framer_tick.md R175, R176): a boundary after a candidate that step 3 closed
changes nothing, one inside a frame loses it. -/

namespace Sys2Proof.Machine

/-! ### What the candidates depend on -/

/-- The action of a pass depends on the accumulator, the parameters, and whether a sentinel is at the head. -/
theorem State.tickStep_congr {s t : State} (hhead : sentAtHead s.raw = sentAtHead t.raw)
    (hacc : s.acc = t.acc) (hparams : s.params = t.params) : s.tickStep = t.tickStep := by
  have hmerge : s.mergeCond = t.mergeCond := by
    rw [State.mergeCond, State.mergeCond, hhead, hacc, hparams]
  have hclose : s.closeCond = t.closeCond := by rw [State.closeCond, State.closeCond, hhead, hacc]
  have hsplit : s.splitPoint = t.splitPoint := by rw [State.splitPoint, State.splitPoint, hacc]
  rw [State.tickStep, State.tickStep, hmerge, hclose, hsplit]

/-- The candidates depend on the bytes in hand and the parameters alone. -/
theorem State.tickCandidates_congr {s t : State} (hraw : s.raw = t.raw) (hacc : s.acc = t.acc)
    (hparams : s.params = t.params) : s.tickCandidates = t.tickCandidates := by
  induction s using State.tick_induction generalizing t with
  | nil s hnil =>
    rw [State.tickCandidates_of_raw_nil hnil, State.tickCandidates_of_raw_nil (hraw ▸ hnil), hacc]
  | pass s hne ih =>
    have hne' : t.raw ≠ [] := hraw ▸ hne
    have hstep : s.tickStep = t.tickStep := State.tickStep_congr (by rw [hraw]) hacc hparams
    have hcuts : s.passCuts = t.passCuts := by rw [State.passCuts, State.passCuts, hstep, hacc]
    obtain ⟨hraw', hacc'⟩ : s.tickPass.raw = t.tickPass.raw ∧ s.tickPass.acc = t.tickPass.acc := by
      rw [State.tickPass, State.tickPass, hstep]
      cases t.tickStep <;> simp [hraw, hacc]
    rw [State.tickCandidates_of_raw_ne_nil hne, State.tickCandidates_of_raw_ne_nil hne', hcuts,
      ih hraw' hacc' (by simpa using hparams)]

/-- What a tick leaves, from its candidates (R160). -/
theorem State.tick_eq (s : State) :
    s.tick = { s with
      raw := []
      acc := []
      cfq := afterPushes s.params.fqCap s.cfq s.tickCandidates } := by
  rw [State.tick_only, State.tick_raw, State.tick_acc, State.tick_cfq]

/-- Two ticks leave what one leaves when they hand over the same candidates. -/
theorem State.tick_tick {s : State} {xs ys : List Byte} (hacc : s.acc = [])
    (h : State.tickCandidates { s with raw := xs } ++ State.tickCandidates { s with raw := ys } =
      s.tickCandidates) :
    State.tick { State.tick { s with raw := xs } with raw := ys } = s.tick := by
  have hfirst := State.tick_eq { s with raw := xs }
  generalize State.tick { s with raw := xs } = u at hfirst ⊢
  have hsecond : State.tickCandidates { u with raw := ys } = State.tickCandidates { s with raw := ys } :=
    State.tickCandidates_congr rfl (by simp [hfirst, hacc]) (by simp [hfirst])
  rw [State.tick_eq s, ← h, afterPushes_append, State.tick_eq { u with raw := ys }, hsecond, hfirst]

/-! ### A backlog cut off at a sentinel (R175) -/

/-- Cutting the backlog off where a sentinel begins does not change the next pass: step 2 and step 3 look at
two bytes of it, and a byte followed by a sentinel is not the first of one. -/
theorem State.tickStep_truncate {s : State} {todo z : List Byte} (hz : sentAtHead z = true)
    (htodo : todo ≠ []) (hraw : s.raw = todo ++ z) :
    State.tickStep { s with raw := todo } = s.tickStep := by
  refine State.tickStep_congr ?_ rfl rfl
  obtain ⟨rest, rfl⟩ := (sentAtHead_iff z).1 hz
  rw [hraw]
  match todo with
  | [b] => simp [sentAtHead, pairAt]
  | b :: c :: more => rfl

/-- Then the pass itself is the same, but for the bytes cut off. -/
theorem State.tickPass_truncate {s : State} {todo todo' z : List Byte} (hz : sentAtHead z = true)
    (htodo : todo ≠ []) (hraw : s.raw = todo ++ z) (hraw' : s.tickPass.raw = todo' ++ z) :
    State.tickPass { s with raw := todo } = { s.tickPass with raw := todo' } := by
  have hsame := State.tickStep_truncate hz htodo hraw
  have hne : s.raw ≠ [] := by simp [hraw, htodo]
  obtain ⟨hstep, -, hpass, rest, hr⟩ | ⟨hstep, -, -, hpass, -⟩ | ⟨p, e, hstep, -, hpass, -⟩ |
    ⟨b, rest, hstep, -, -, hpass, hr⟩ := s.tickPass_cases hne <;>
    rw [State.tickPass, hsame, hstep, hpass]
  case inl =>
    obtain rfl : todo = Config.sentinel0 :: Config.sentinel1 :: todo' := List.append_cancel_right
      (hraw.symm.trans (by simpa [hpass, hr] using hraw'))
    simp [State.tickMerge, hr]
  case inr.inl =>
    obtain rfl : todo = todo' := List.append_cancel_right (hraw.symm.trans (by simpa [hpass] using hraw'))
    rfl
  case inr.inr.inl =>
    obtain rfl : todo = todo' := List.append_cancel_right (hraw.symm.trans (by simpa [hpass] using hraw'))
    rfl
  case inr.inr.inr =>
    obtain rfl : todo = b :: todo' := List.append_cancel_right
      (hraw.symm.trans (by simpa [hpass, hr] using hraw'))
    simp [State.tickAppend, hr]

/-- The tick from `s` closes `c` by step 3 with the bytes `z` left in the backlog, having taken in `todo` and
handed over `before`: without `z` it hands over the same and flushes `c`, and it goes on as a tick over `z`. -/
structure State.ClosesAt (s : State) (todo z : List Byte) (before : List (List Byte)) (c : List Byte) :
    Prop where
  raw : s.raw = todo ++ z
  sent : sentAtHead z = true
  cutOff : State.tickCandidates { s with raw := todo } = before ++ [c]
  whole : s.tickCandidates = before ++ c :: State.tickCandidates { s with raw := z, acc := [] }

namespace State.ClosesAt

variable {s : State} {c : List Byte}

/-- A pass by step 3 is a close before which nothing is taken in. -/
theorem of_close (hmerge : ¬ s.mergeCond = true) (hclose : s.closeCond = true) :
    s.ClosesAt [] s.raw [] s.acc := by
  obtain ⟨hhead, hacc⟩ := State.closeCond_iff.1 hclose
  refine ⟨rfl, (sentAtHead_iff _).2 hhead, ?_, ?_⟩
  · rw [State.tickCandidates_of_raw_nil rfl, if_pos (List.length_pos_iff.2 hacc)]
    rfl
  · rw [State.tickCandidates_of_closeCond hmerge hclose]
    exact congrArg (s.acc :: ·) (State.tickCandidates_congr rfl rfl rfl)

/-- A pass before the close leaves bytes to take in: after a close the accumulator starts empty, and a split
happens at no sentinel. -/
theorem exists_todo {todo' z : List Byte} {before : List (List Byte)} (hne : s.raw ≠ [])
    (h : s.tickPass.ClosesAt todo' z before c) : ∃ todo, todo ≠ [] ∧ s.raw = todo ++ z := by
  have hraw := h.raw
  obtain ⟨-, -, hpass, rest, hr⟩ | ⟨-, -, -, hpass, -⟩ | ⟨p, e, -, hclose, hpass, -, -, hp⟩ |
    ⟨b, rest, -, -, -, hpass, hr⟩ := s.tickPass_cases hne
  · exact ⟨Config.sentinel0 :: Config.sentinel1 :: todo', List.cons_ne_nil _ _,
      by simpa [hpass, hr] using hraw⟩
  · refine ⟨todo', fun hnil => ?_, by simpa [hpass] using hraw⟩
    have hcut := h.cutOff
    rw [hnil, State.tickCandidates_of_raw_nil rfl, hpass] at hcut
    simp at hcut
  · refine ⟨todo', fun hnil => ?_, by simpa [hpass] using hraw⟩
    obtain ⟨hp1, hp2, -⟩ := embeddedAt_eq_some hp
    have hz : s.raw = z := by simpa [hpass, hnil] using hraw
    have hclosed : s.closeCond = true := State.closeCond_iff.2
      ⟨(sentAtHead_iff _).1 (hz ▸ h.sent), List.length_pos_iff.1 (by omega)⟩
    rw [hclosed] at hclose
    cases hclose
  · exact ⟨b :: todo', List.cons_ne_nil _ _, by simpa [hpass, hr] using hraw⟩

/-- What the pass before hands over comes first. -/
theorem of_tickPass {todo' z : List Byte} {before : List (List Byte)} (hne : s.raw ≠ [])
    (h : s.tickPass.ClosesAt todo' z before c) :
    ∃ todo, s.ClosesAt todo z (s.passCuts.map (·.2) ++ before) c := by
  obtain ⟨todo, htodo, hraw⟩ := h.exists_todo hne
  have hcuts : State.passCuts { s with raw := todo } = s.passCuts := by
    rw [State.passCuts, State.passCuts, State.tickStep_truncate h.sent htodo hraw]
  have hrest : State.tickCandidates { s.tickPass with raw := z, acc := [] } =
      State.tickCandidates { s with raw := z, acc := [] } :=
    State.tickCandidates_congr rfl rfl s.tickPass_params
  refine ⟨todo, hraw, h.sent, ?_, ?_⟩
  · rw [State.tickCandidates_of_raw_ne_nil htodo, hcuts,
      State.tickPass_truncate h.sent htodo hraw h.raw, h.cutOff, List.append_assoc]
  · rw [State.tickCandidates_of_raw_ne_nil hne, h.whole, hrest, List.append_assoc]

/-- Every cut of the loop by step 3 is such a close. -/
theorem of_loopCuts {n : Nat} {before after : List (TickStep × List Byte)}
    (h : State.loopCuts n s = before ++ (.close, c) :: after) :
    ∃ todo z, s.ClosesAt todo z (before.map (·.2)) c := by
  induction n generalizing s before with
  | zero => simp [State.loopCuts] at h
  | succ n ih =>
    have hne : s.raw ≠ [] := fun hraw => by simp [State.loopCuts_nil _ hraw] at h
    have hlater : ∀ before', before = s.passCuts ++ before' →
        State.loopCuts n s.tickPass = before' ++ (.close, c) :: after →
        ∃ todo z, s.ClosesAt todo z (before.map (·.2)) c := by
      rintro before' rfl hnext
      obtain ⟨todo', z, hcloses⟩ := ih hnext
      obtain ⟨todo, hcloses⟩ := hcloses.of_tickPass hne
      exact ⟨todo, z, by rwa [List.map_append]⟩
    rw [State.loopCuts_succ _ hne] at h
    obtain ⟨hstep, -⟩ | ⟨hstep, hmerge, hacc, -, hhead⟩ | ⟨p, e, hstep, -⟩ | ⟨b, rest, hstep, -⟩ :=
      s.tickPass_cases hne <;> simp only [State.passCuts, hstep] at h hlater
    case inl => exact hlater before rfl h
    case inr.inl =>
      cases before with
      | nil =>
        obtain ⟨⟨-, rfl⟩, -⟩ : (True ∧ s.acc = c) ∧ _ := by simpa using h
        exact ⟨[], s.raw, of_close (Bool.eq_false_iff.1 hmerge) (State.closeCond_iff.2 ⟨hhead, hacc⟩)⟩
      | cons first before =>
        obtain ⟨rfl, hnext⟩ := List.cons.inj h
        exact hlater before rfl hnext
    case inr.inr.inl =>
      cases before with
      | nil => simp at h
      | cons first before =>
        obtain ⟨rfl, hnext⟩ := List.cons.inj h
        exact hlater before rfl hnext
    case inr.inr.inr => exact hlater before rfl h

end State.ClosesAt

/-- Settles O50: the first of the two ticks flushes what the one tick closes, and the second starts as the one
tick goes on. -/
theorem tickBoundaryAtCloseIsHarmless : Obligations.TickBoundaryAtCloseIsHarmless := by
  intro s before after c n hacc hcuts hn
  obtain ⟨todo, z, hcloses⟩ := State.ClosesAt.of_loopCuts hcuts
  have hbytes := State.flatten_tickCandidates { s with raw := todo }
  rw [hcloses.cutOff, hacc, List.nil_append, List.flatten_append, List.flatten_singleton] at hbytes
  have hlen : todo.length = n := by rw [hn, ← List.length_append, hbytes]
  have htake : s.raw.take n = todo := hcloses.raw ▸ List.take_left' hlen
  have hdrop : s.raw.drop n = z := hcloses.raw ▸ List.drop_left' hlen
  have hrest : State.tickCandidates { s with raw := z, acc := [] } =
      State.tickCandidates { s with raw := z } := State.tickCandidates_congr rfl hacc.symm rfl
  have hboth : State.tickCandidates { s with raw := todo } ++ State.tickCandidates { s with raw := z } =
      s.tickCandidates := by
    rw [hcloses.cutOff, hcloses.whole, hrest, ← List.append_cons]
  rw [htake, hdrop]
  exact ⟨hboth, State.tick_tick hacc hboth⟩

/-! ### A tick inside a frame (R176) -/

theorem State.length_le_of_mem_tickCandidates {s : State} {c : List Byte} (hc : c ∈ s.tickCandidates) :
    c.length ≤ s.acc.length + s.raw.length := by
  rw [← List.length_append, ← State.flatten_tickCandidates]
  exact (List.sublist_flatten_of_mem hc).length_le

/-- Neither part of a sequence of bytes has the whole among its candidates: it is too short. -/
theorem State.not_mem_tickCandidates_of_cut {s : State} {f : List Byte} {m : Nat} (hacc : s.acc = [])
    (hm : 1 ≤ m) (hmlt : m < f.length) :
    f ∉ State.tickCandidates { s with raw := f.take m } ++
      State.tickCandidates { s with raw := f.drop m } := by
  intro hmem
  obtain hfirst | hsecond := List.mem_append.1 hmem
  · have hle := State.length_le_of_mem_tickCandidates hfirst
    simp only [hacc, List.length_nil, List.length_take] at hle
    omega
  · have hle := State.length_le_of_mem_tickCandidates hsecond
    simp only [hacc, List.length_nil, List.length_drop] at hle
    omega

/-- The frame of R176's example. -/
def exampleFrame : List Byte := [0xA0#8, 0x00#8, 0x10#8, 0x02#8, 0x11#8, 0x22#8, 0x70#8, 0xF2#8]

/-- Settles O51: a part of a frame is too short to be the frame; and a clean frame is a candidate of one tick
over it, so not the candidate of either of two ticks (R176's example, cut after five bytes). -/
theorem tickInsideFrameLosesIt : Obligations.TickInsideFrameLosesIt := by
  refine ⟨fun s f m hacc hm hmlt => State.not_mem_tickCandidates_of_cut hacc hm hmlt, fun hindep => ?_⟩
  have hsplit := hindep (State.resetWith ⟨64, 4, 64⟩) (exampleFrame.take 5) (exampleFrame.drop 5) rfl
  have hlost := State.not_mem_tickCandidates_of_cut (s := State.resetWith ⟨64, 4, 64⟩)
    (f := exampleFrame) (m := 5) rfl (by decide) (by decide)
  rw [hsplit, List.take_append_drop, State.tickCandidates_of_clean (fs := [exampleFrame])
    (List.cons_ne_nil _ _) rfl rfl (by decide)] at hlost
  exact hlost (List.mem_singleton_self _)

end Sys2Proof.Machine
end

section
/-! Steps that carry out no command word, and that no step faults or is refused (spec/60_exceptions.md R200,
R203, R205, R210, R220). -/

namespace Sys2Proof.Machine

/-! ### The steps without a command word (R210, R220; log 5, log 7) -/

section
variable {s : State} {rest : List Event}

theorem step_of_no_event (hev : s.events = []) : step s = .next s := by
  have hfetch : s.fetch = .idle := by simp [State.fetch, hev]
  simp [step, hfetch]

theorem step_of_empty_turn {a : Agent} (hev : s.events = .op a :: rest) (hp : (s.port a).pending = []) :
    step s = .next { s with events := rest } := by
  have hfetch : s.fetch = .skip { s with events := rest } := by simp [State.fetch, hev, hp]
  simp [step, hfetch]

theorem step_of_powerOn (hev : s.events = .powerOn :: rest) :
    step s = .next (State.resetBlock { s with events := rest }) := by
  have hfetch : s.fetch = .powerOn { s with events := rest } := by simp [State.fetch, hev]
  simp [step, hfetch]

end

/-! ### Every step answers (R200, R203, R205) -/

theorem exec_answers (i : Instr) (s : State) : ∃ t, exec i s = .next t :=
  ⟨_, exec_eq i s⟩

/-- What an agent's first word comes to, an operation or a reserved word, answers a next state. -/
theorem step_answers_of_command {s : State} {a : Agent} {rest : List Event} {w : CmdWord}
    {ws : List CmdWord} (hev : s.events = .op a :: rest) (hp : (s.port a).pending = w :: ws) :
    ∃ t, step s = .next t := by
  cases hd : decode w with
  | ok i => rw [step_eq_exec_of_decode_ok hev hp hd]; exact exec_answers i _
  | error e => exact ⟨_, step_eq_execReserved_of_decode_error hev hp hd⟩

theorem step_answers (s : State) : ∃ t, step s = .next t := by
  obtain ⟨hev, -⟩ | ⟨rest, hev, -⟩ | ⟨a, rest, hev, hp, -⟩ | ⟨a, rest, w, ws, hev, hp, -⟩ :=
    s.fetch_cases
  · exact ⟨_, step_of_no_event hev⟩
  · exact ⟨_, step_of_powerOn hev⟩
  · exact ⟨_, step_of_empty_turn hev hp⟩
  · exact step_answers_of_command hev hp

/-! ### The statements -/

/-- Settles O6, by what taking the next event can give, and by the two ways a word decodes. -/
theorem everyStepAnswersNext : Obligations.EveryStepAnswersNext :=
  ⟨step_answers, exec_answers⟩

/-- Settles O7, by the three steps without a command word; `resetBlock` is R33's values, written out. -/
theorem idleHoldsAndPowerOnResets : Obligations.IdleHoldsAndPowerOnResets :=
  ⟨fun _ => step_of_no_event, fun _ _ _ => step_of_empty_turn, fun _ _ => step_of_powerOn⟩

end Sys2Proof.Machine
end

section
/-! Frames a tick cuts (spec/70_reset_and_hazards.md R234, R235): a header look-alike, and a frame that carries
the sentinel pair beyond `FRAME_MAX_LEN`. -/

namespace Sys2Proof.Machine

/-! ### Header look-alikes (R234) -/

/-- Behind a sentinel and one byte at most the pair does not stand a second time. -/
theorem pairAt_sentinel_cons_eq_false {rest : List Byte} (hrest : rest.length ≤ 1) {q : Nat} (hq : 1 ≤ q) :
    pairAt (Config.sentinel0 :: Config.sentinel1 :: rest) q = false := by
  refine Bool.eq_false_iff.2 fun hpair => ?_
  have hbound := pairAt_bound hpair
  simp only [List.length_cons] at hbound
  obtain rfl : q = 1 := by omega
  exact absurd ((pairAt_iff _ _).1 hpair).1 (by simp)

/-- The bytes before a pair that comes in place of the header's end are appended one by one: they have no
expected length yet, and no sentinel among them comes to the head. -/
theorem State.comesTo_of_short_of_sentinel {s : State} {pre g : List Byte} (hshort : pre.length < 4)
    (hno : ∀ q, 1 ≤ q → pairAt pre q = false) (hacc : s.acc = [])
    (hraw : s.raw = pre ++ Config.sentinel0 :: g) : s.ComesTo pre (Config.sentinel0 :: g) := by
  have happends := State.comesTo_of_appends hraw (fun i hi hne => ?sent) (fun i hi e he => ?len)
  case sent =>
    have hpos : 1 ≤ i := Nat.one_le_iff_ne_zero.2 fun h => hne (by simp [hacc, h])
    exact hraw ▸ pairAt_append_sentinel hno g hpos hi
  case len =>
    have hheader : 4 ≤ (s.acc ++ pre.take i).length := headerLen_le_of_explen he
    rw [hacc, List.nil_append, List.length_take] at hheader
    omega
  rwa [hacc, List.nil_append] at happends

/-- A sentinel and one byte at most, interrupted by the pair, are closed as the first candidate (R165). -/
theorem State.head?_tickCandidates_of_lookAlike {s : State} {rest g : List Byte} (hrest : rest.length ≤ 1)
    (hacc : s.acc = [])
    (hraw : s.raw = (Config.sentinel0 :: Config.sentinel1 :: rest) ++
      Config.sentinel0 :: Config.sentinel1 :: g) :
    s.tickCandidates.head? = some (Config.sentinel0 :: Config.sentinel1 :: rest) := by
  have hshort : (Config.sentinel0 :: Config.sentinel1 :: rest).length < 4 := by
    simp only [List.length_cons]
    omega
  obtain ⟨t, htacc, htraw, -, hsame⟩ := State.comesTo_of_short_of_sentinel hshort
    (fun _ => pairAt_sentinel_cons_eq_false hrest) hacc hraw
  rw [hsame, State.tickCandidates_of_interrupted_short (List.cons_ne_nil _ _) hshort htacc htraw,
    List.head?_cons]

/-- Settles O52: both kinds are a sentinel interrupted by the pair before the fourth byte, without a byte
between and with one. -/
theorem headerLookAlikesAreMiscut : Obligations.HeaderLookAlikesAreMiscut :=
  ⟨fun _ _ hacc hraw => State.head?_tickCandidates_of_lookAlike (rest := []) (by simp) hacc hraw,
    fun _ ty _ hacc hraw => State.head?_tickCandidates_of_lookAlike (rest := [ty]) (by simp) hacc hraw⟩

/-! ### A pair beyond `FRAME_MAX_LEN` (R235) -/

theorem State.passes_succ_eq_tickPass (k : Nat) (s : State) :
    State.passes (k + 1) s = (State.passes k s).tickPass := by
  induction k generalizing s with
  | zero => rfl
  | succ k ih => exact ih s.tickPass

theorem State.passes_params (k : Nat) (s : State) : (State.passes k s).params = s.params := by
  induction k generalizing s with
  | zero => rfl
  | succ k ih => exact (ih s.tickPass).trans s.tickPass_params

/-- Every candidate is what the accumulator held after some pass of the tick, or the front of it: steps 3 and 6
hand over the whole, step 4 a front part. -/
theorem State.exists_passes_of_mem_tickCandidates {s : State} {c : List Byte} (hc : c ∈ s.tickCandidates) :
    ∃ k, (∀ j < k, (State.passes j s).raw ≠ []) ∧ c <+: (State.passes k s).acc := by
  induction s using State.tick_induction with
  | nil s hraw =>
    rw [State.tickCandidates_of_raw_nil hraw, List.mem_ite_nil_right, List.mem_singleton] at hc
    exact ⟨0, nofun, hc.2 ▸ List.prefix_rfl⟩
  | pass s hraw ih =>
    rw [State.tickCandidates_of_raw_ne_nil hraw, List.mem_append] at hc
    obtain hnow | hlater := hc
    · refine ⟨0, nofun, ?_⟩
      rw [State.passCuts] at hnow
      split at hnow
      case h_1 => cases hnow
      case h_2 => exact List.mem_singleton.1 hnow ▸ List.prefix_rfl
      case h_3 p _ => exact List.mem_singleton.1 hnow ▸ List.take_prefix p s.acc
      case h_4 => cases hnow
    · obtain ⟨k, hpasses, hprefix⟩ := ih hlater
      refine ⟨k + 1, fun j hj => ?_, hprefix⟩
      cases j with
      | zero => exact hraw
      | succ j => exact hpasses j (Nat.lt_of_succ_lt_succ hj)

/-- Step 2 is carried out under its condition alone. -/
theorem State.mergeCond_of_tickStep {s : State} (hraw : s.raw ≠ []) (h : s.tickStep = .merge) :
    s.mergeCond = true := by
  obtain ⟨-, hmerge, -⟩ | ⟨hstep, -⟩ | ⟨p, e, hstep, -⟩ | ⟨b, rest, hstep, -⟩ := s.tickPass_cases hraw
  · exact hmerge
  all_goals rw [hstep] at h; cases h

/-- During a tick from an empty accumulator no pair stands in it beyond `FRAME_MAX_LEN`: only step 2 brings one
in, at the end of an accumulator no longer than that (R164, R172). -/
theorem State.pairAt_passes_acc_eq_false {s : State} (hacc : s.acc = []) {k : Nat}
    (hraw : ∀ j < k, (State.passes j s).raw ≠ []) {p : Nat} (hp : s.params.frameMaxLen < p) :
    pairAt (State.passes k s).acc p = false := by
  induction k generalizing p with
  | zero => simp [State.passes, hacc, pairAt]
  | succ k ih =>
    refine Bool.eq_false_iff.2 fun hpair => ?_
    have hbefore : ∀ {q}, s.params.frameMaxLen < q → ¬ pairAt (State.passes k s).acc q = true :=
      fun hq => Bool.eq_false_iff.1 (ih (fun j hj => hraw j (Nat.lt_succ_of_lt hj)) hq)
    rw [State.passes_succ_eq_tickPass] at hpair
    have horigin := embeddedSentinelsComeFromMerge s k p hacc
      (fun j hj => hraw j (Nat.lt_succ_of_le hj)) (by omega) hpair
    split at horigin
    case h_1 hstep =>
      obtain ⟨-, -, hmax⟩ := State.mergeCond_iff.1
        (State.mergeCond_of_tickStep (hraw k k.lt_succ_self) hstep)
      rw [State.passes_params] at hmax
      obtain hold | rfl := horigin
      · exact hbefore hp hold
      · omega
    case h_2 => exact horigin
    case h_3 => exact hbefore (by omega) horigin
    case h_4 => exact hbefore hp horigin

/-- A pair in the front of a sequence stands in the sequence. -/
theorem pairAt_of_prefix {c a : List Byte} (h : c <+: a) {p : Nat} (hpair : pairAt c p = true) :
    pairAt a p = true := by
  obtain ⟨x, rfl⟩ := h
  rwa [pairAt_append_of_lt (pairAt_bound hpair)]

/-- Settles O53: a candidate is the front of an accumulator, and none of the tick's carries the pair there. -/
theorem pairBeyondMaxLenCutsFrame : Obligations.PairBeyondMaxLenCutsFrame := by
  intro s f p hacc hp hpair hmem
  obtain ⟨k, hraw, hprefix⟩ := State.exists_passes_of_mem_tickCandidates hmem
  exact Bool.eq_false_iff.1 (State.pairAt_passes_acc_eq_false hacc hraw hp) (pairAt_of_prefix hprefix hpair)

end Sys2Proof.Machine
end
